-- ==== Sys2Proof/Word.lean ====
section
/-!
DEFINITION. The plainest data of the block: bytes, the two lines, what a line can be driven to and what level it can
have (spec/00_scope.md R10, R11), and the opaque line identifiers of R8.
-/

namespace Sys2Proof

/-- A byte is 8 bits, bit 0 the least significant (00_scope.md R10). -/
abbrev Byte := BitVec 8

/-- The two lines (00_scope.md R11): the clock line and the data line. -/
inductive Line where
  | clk
  | dio
  deriving DecidableEq, Repr

/-- A line's drive state (00_scope.md R11): driven low, or released to the pull-up. -/
inductive Drive where
  | low
  | rel
  deriving DecidableEq, Repr

/-- A line's level (00_scope.md R11): L or H. -/
inductive Level where
  | low
  | high
  deriving DecidableEq, Repr, Inhabited

/-- An opaque line identifier (00_scope.md R8), held as the word that names it; only equality is ever asked of it. -/
structure LineId where
  name : List Char
  deriving DecidableEq, Repr

end Sys2Proof
end

