-- ==== Sys2Proof/Config.lean ====
section
/-!
DEFINITION. What is fixed for one block instance (spec/00_scope.md R8) and the free values the spec leaves open.
The parameters supplied at `init` (the line identifiers, the bit delay, the initial level, the snapshot flag) are
arguments of that operation, not constants here.
-/

namespace Sys2Proof

/-- The parameters of one block instance that no operation writes (00_scope.md R8).  They stand in the machine's
state, so that a statement about every state is a statement about every `SEG_LUT` (92_eei_decisions.md D9). -/
structure Params where
  /-- `SEG_LUT`: 16 entries of 8 bits, read only (10_state.md R25, 42_digit_encoding.md R88). -/
  segLut : Vector Byte 16
  /-- `PULLUP_PRESENT` (00_scope.md R8, D15). -/
  pullupPresent : Bool
  deriving DecidableEq, Repr

/-- What the environment decides at the instant of one SAMPLE (10_state.md R27, 60_exceptions.md R109). -/
structure Draw where
  /-- `rx.pullDIO`: the receiver pulls DIO low. -/
  pullDIO : Bool
  /-- The level a released DIO floats to where there is no pull-up and nothing pulls it (D15, U11). -/
  floats : Level
  deriving DecidableEq, Repr, Inhabited

/-- FREE VALUE (log 2): the environment's draw at the n-th SAMPLE of a run, "under no law" (60_exceptions.md R109,
D16).  It has no body, so no proof can rest on what it is. -/
opaque Config.receiverDraw : Nat → Draw

/-- FREE VALUE (log 15): `POSITION_MAP`, from a position 0..3 to a physical digit; OPEN in the spec and used by no
rule (00_scope.md R8, D20). -/
opaque Config.positionMap : Fin 4 → Nat

end Sys2Proof
end

