-- ==== Sys2Proof/Machine/Params.lean ====
section
/-!
DEFINITION. The fixed numbers of the block (spec/00_scope.md R5, R8; spec/30_encoding.md R51-R55) and the default
digit table (spec/42_digit_encoding.md R89).
-/

namespace Sys2Proof.Machine

/-- `NUM_POSITIONS` (00_scope.md R8). -/
def numPositions : Nat := 4

/-- `BIT_DELAY_US` where `init` omits it (00_scope.md R8, 90_conflicts.md C2). -/
def defaultBitDelayUs : Nat := 100

/-- `numDigits` where `setSegments` omits it (41_command_protocol.md R79). -/
def defaultNumDigits : Nat := 4

/-- `firstPosition` where `setSegments` omits it (41_command_protocol.md R79). -/
def defaultFirstPosition : Int := 0

/-- Command 1, the data-write command (30_encoding.md R51). -/
def dataWriteByte : Byte := 0x40#8

/-- `BLANK`, all segments off (30_encoding.md R55). -/
def blankByte : Byte := 0x00#8

/-- `MINUS`, segment g alone (30_encoding.md R55). -/
def minusByte : Byte := 0x40#8

/-- `COLON`, bit 7 (30_encoding.md R55). -/
def colonByte : Byte := 0x80#8

/-- The default `SEG_LUT` (42_digit_encoding.md R89).  PRESUMED (log 9): the spec gives these 16 values from general
knowledge; the source does not list them. -/
def defaultSegLut : Vector Byte 16 :=
  #v[0x3F#8, 0x06#8, 0x5B#8, 0x4F#8, 0x66#8, 0x6D#8, 0x7D#8, 0x07#8,
     0x7F#8, 0x6F#8, 0x77#8, 0x7C#8, 0x39#8, 0x5E#8, 0x79#8, 0x71#8]

/-- The parameters of the instance that `State.reset` starts: the default table and a pull-up on the lines. -/
def defaultParams : Params :=
  { segLut := defaultSegLut, pullupPresent := true }

/-- The law every `SEG_LUT` meets (42_digit_encoding.md R88): bit 7 of every entry is clear, and the entries of the
decimal digits are not blank. -/
def lutLawful (lut : Vector Byte 16) : Bool :=
  lut.toList.all (fun b => !b.getLsbD 7) && (lut.toList.take 10).all (fun b => b != blankByte)

end Sys2Proof.Machine
end

