-- ==== Sys2Proof/Syntax.lean ====
section
/-!
DEFINITION. The syntax of the block: `Instr`, one constructor per row of spec/opcode_table.json; the events of the
line trace and the frame log (spec/00_scope.md R12, R13); the frames (spec/30_encoding.md R56); the requests a host can
place; and the data types of the decoder.
-/

namespace Sys2Proof

/-- One operation of the block, one constructor per row of spec/opcode_table.json, in the table's order. -/
inductive Instr where
  /-- DATA_WRITE, wire byte `0x40` (30_encoding.md R51). -/
  | dataWrite
  /-- ADDR_SET, wire byte `110000aa` (30_encoding.md R52). -/
  | addrSet (aa : BitVec 2)
  /-- DISPLAY_CTRL, wire byte `10001lll` (30_encoding.md R53). -/
  | displayCtrl (lll : BitVec 3)
  /-- SEGMENT_DATA, wire byte `Pgfedcba` (30_encoding.md R54). -/
  | segmentData (b : Byte)
  /-- `drive(ℓ)` (40_transport.md R65). -/
  | drive (l : Line)
  /-- `release(ℓ)` (40_transport.md R66). -/
  | release (l : Line)
  /-- `setData(d)`, d ∈ {0,1} (40_transport.md R67). -/
  | setData (d : Bool)
  /-- `wait()` (40_transport.md R68). -/
  | wait
  /-- `sample(DIO)` (40_transport.md R69). -/
  | sample
  /-- `start()` (40_transport.md R70). -/
  | start
  /-- `stop()` (40_transport.md R71). -/
  | stop
  /-- `sendByte(b)`; only `b[7:0]` is used (40_transport.md R72). -/
  | sendByte (b : Nat)
  /-- `init(clk, dio, level, bitDelayUs, retain)` (41_command_protocol.md R87). -/
  | init (clk dio : LineId) (level : Int) (bitDelayUs : Nat) (retain : Bool)
  /-- `setSegments(segments, numDigits, firstPosition)` (41_command_protocol.md R79). -/
  | setSegments (segments : List Nat) (numDigits : Nat) (firstPosition : Int)
  /-- `setBrightness(level)` (41_command_protocol.md R84). -/
  | setBrightness (level : Int)
  /-- `clear()` (41_command_protocol.md R85). -/
  | clear
  /-- `getSegments()` (41_command_protocol.md R86). -/
  | getSegments
  /-- `digitToSegment(value)` (42_digit_encoding.md R90). -/
  | digitToSegment (value : Int)
  /-- `displayInteger(x)` (42_digit_encoding.md R94). -/
  | displayInteger (x : Int)
  /-- `displayTime(a, b)` (42_digit_encoding.md R98). -/
  | displayTime (a b : Int)
  deriving DecidableEq, Repr

/-- A line event of the line trace (00_scope.md R12, R13). -/
inductive LineEvent where
  /-- `DRIVE ℓ` -/
  | drive (l : Line)
  /-- `REL ℓ` -/
  | rel (l : Line)
  /-- `WAIT` -/
  | wait
  /-- `SAMPLE DIO = v` -/
  | sample (v : Level)
  deriving DecidableEq, Repr

/-- A transport event of the frame log (00_scope.md R12, R13). -/
inductive FrameEvent where
  /-- `START` -/
  | start
  /-- `STOP` -/
  | stop
  /-- `BYTE b ack` -/
  | byte (b : Byte) (ack : Bool)
  deriving DecidableEq, Repr

/-- The three frame formats (30_encoding.md R56). -/
inductive WireFrame where
  /-- F1, data-write. -/
  | dataWrite
  /-- F2, address and payload. -/
  | address (aa : BitVec 2) (payload : List Byte)
  /-- F3, display control. -/
  | control (lll : BitVec 3)
  deriving DecidableEq, Repr

/-- What can be placed before the block for its next step.  `call` is the tagged call term of D1; `line` is one line of
call syntax (30_encoding.md R61); `command` and `payload` are raw wire bytes with their place in a frame (R56): the
first byte of a frame, or a later one. -/
inductive Request where
  | call (i : Instr)
  | line (text : List Char)
  | command (b : Byte)
  | payload (b : Byte)
  deriving DecidableEq, Repr

/-- Why the decoder rejects something, by name. -/
inductive DecodeError where
  /-- A first byte of a frame that is none of `0x40`, `0xC0`..`0xC3`, `0x88`..`0x8F` (30_encoding.md R59). -/
  | notACommandByte (b : Byte)
  /-- A frame with no byte at all (R56: each has at least one). -/
  | emptyFrame
  /-- A one-byte frame (F1 or F3) with bytes after its command byte (R56). -/
  | bytesAfterCommand
  /-- An address frame whose payload reaches past position 3 (R56). -/
  | payloadPastLastPosition
  /-- A character that stands in no call (R61). -/
  | badCharacter (c : Char)
  /-- A line that holds no call: blank, or a comment only (R61). -/
  | noCall
  /-- Tokens that are not `name(arguments)` (R61). -/
  | notACall
  /-- A name that is none of the operations R61 and R12 list. -/
  | unknownOperation (name : List Char)
  /-- Arguments that the named operation does not take (R61). -/
  | badArguments (name : List Char)
  deriving DecidableEq, Repr

/-- A token of the call syntax (30_encoding.md R61). -/
inductive Token where
  | word (w : List Char)
  | minus
  | lparen
  | rparen
  | lbrack
  | rbrack
  | comma
  deriving DecidableEq, Repr

/-- One argument as written: a word, a negated word, or a bracketed list of naturals. -/
inductive Arg where
  | word (w : List Char)
  | negative (w : List Char)
  | list (xs : List Nat)
  deriving DecidableEq, Repr

/-- Where the reader of an argument list stands. -/
inductive ArgMode where
  /-- right after the opening parenthesis -/
  | first
  /-- after a comma: an argument must follow -/
  | arg
  /-- after a minus sign: a word must follow -/
  | negated
  /-- after an argument: a comma or the closing parenthesis -/
  | after
  /-- right after an opening bracket -/
  | listFirst
  /-- after a comma inside brackets: a number must follow -/
  | listItem
  /-- after a number inside brackets -/
  | listAfter
  /-- after the closing parenthesis: nothing may follow -/
  | closed
  deriving DecidableEq, Repr

/-- The state of the reader of an argument list: its place, the arguments read, the numbers of the open bracket. -/
structure ArgReader where
  mode  : ArgMode
  args  : List Arg
  items : List Nat
  deriving DecidableEq, Repr

/-- The state of the reader of a recorded line trace (30_encoding.md R57): the drive state of the two lines, whether a
START has been seen and no STOP since, how many clock pulses the current byte has had, its data bits in the order they
were clocked, and the frame log read so far. -/
structure Scan where
  clk     : Drive
  dio     : Drive
  inFrame : Bool
  pulses  : Nat
  bits    : List Bool
  log     : List FrameEvent
  deriving DecidableEq, Repr

end Sys2Proof
end

