-- ==== Sys2Proof/WellFormed.lean ====
section
/-!
DEFINITION. When a term of the syntax is well formed: line identifiers that can be written in call syntax, frames of
the formats R56 allows, and requests that a host program may make (spec/30_encoding.md R56, R61;
spec/92_eei_decisions.md D19).
-/

namespace Sys2Proof

/-- A character of a word of the call syntax (30_encoding.md R61; DESIGN CHOICE, log 10). -/
def wordChar (c : Char) : Bool := c.isAlphanum || c == '_'

/-- A line identifier that the call syntax can write: a non-empty word (log 10). -/
def LineId.wf (l : LineId) : Bool := !l.name.isEmpty && l.name.all wordChar

/-- A well-formed instruction: every value of every operand is one, but for a line identifier that is no word. -/
def Instr.wf : Instr → Bool
  | .init clk dio _ _ _ => clk.wf && dio.wf
  | .dataWrite | .addrSet _ | .displayCtrl _ | .segmentData _ | .drive _ | .release _ | .setData _ | .wait | .sample
  | .start | .stop | .sendByte _ | .setSegments _ _ _ | .setBrightness _ | .clear | .getSegments | .digitToSegment _
  | .displayInteger _ | .displayTime _ _ => true

/-- The four rows of the table that are wire bytes (30_encoding.md R51-R54). -/
def Instr.isWireByte : Instr → Bool
  | .dataWrite | .addrSet _ | .displayCtrl _ | .segmentData _ => true
  | .drive _ | .release _ | .setData _ | .wait | .sample | .start | .stop | .sendByte _ | .init _ _ _ _ _
  | .setSegments _ _ _ | .setBrightness _ | .clear | .getSegments | .digitToSegment _ | .displayInteger _
  | .displayTime _ _ => false

/-- The public operations of the block (30_encoding.md R61).  The others are internal: "Internal only; the model may
expose them to tests but no host program calls them" (D19). -/
def Instr.hostCallable : Instr → Bool
  | .init _ _ _ _ _ | .setSegments _ _ _ | .setBrightness _ | .clear | .getSegments | .digitToSegment _
  | .displayInteger _ | .displayTime _ _ => true
  | .dataWrite | .addrSet _ | .displayCtrl _ | .segmentData _ | .drive _ | .release _ | .setData _ | .wait | .sample
  | .start | .stop | .sendByte _ => false

/-- A frame of a format R56 allows: the payload of F2 does not reach past position 3 (`0 ≤ n ≤ 4 - aa`). -/
def WireFrame.wf : WireFrame → Bool
  | .dataWrite => true
  | .address aa payload => decide (aa.toNat + payload.length ≤ 4)
  | .control _ => true

end Sys2Proof
end

