-- ==== Sys2Proof/Decode.lean ====
section
/-!
DEFINITION. Decoding and, after it, encoding: the three encoded layers of spec/30_encoding.md R47 (bit cells, byte
formats, frame formats), the reading of a recorded line trace (R57), and the call syntax of R61.
-/

namespace Sys2Proof

/-! ## Wire bytes (30_encoding.md R51-R54) -/

/-- A byte that is the first of a frame.  The three command rows of the table by their mask and match; every other
value is rejected by name: the block never emits one (30_encoding.md R59). -/
def decodeCommand (b : Byte) : Except DecodeError Instr :=
  if b = 0x40#8 then .ok .dataWrite
  else if b &&& 0xFC#8 = 0xC0#8 then .ok (.addrSet (b.extractLsb' 0 2))
  else if b &&& 0xF8#8 = 0x88#8 then .ok (.displayCtrl (b.extractLsb' 0 3))
  else .error (.notACommandByte b)

/-- A later byte of a frame: any value is a segment byte (30_encoding.md R54). -/
def decodePayload (b : Byte) : Instr := .segmentData b

/-- A raw byte whose place in a frame is not given: a command where it is one, else a payload byte
(DESIGN CHOICE, log 4). -/
def requestOfByte (b : Byte) : Request :=
  match decodeCommand b with
  | .ok _ => .command b
  | .error _ => .payload b

/-- The bytes between one START and the next STOP, as a frame (30_encoding.md R56): the first byte is the command,
the bytes after an address command are its payload. -/
def decodeFrame : List Byte → Except DecodeError WireFrame
  | [] => .error .emptyFrame
  | b :: rest =>
    match decodeCommand b with
    | .error e => .error e
    | .ok (.addrSet aa) =>
      if aa.toNat + rest.length ≤ 4 then .ok (.address aa rest) else .error .payloadPastLastPosition
    | .ok (.displayCtrl lll) => if rest = [] then .ok (.control lll) else .error .bytesAfterCommand
    | .ok .dataWrite => if rest = [] then .ok .dataWrite else .error .bytesAfterCommand
    | .ok _ => .error (.notACommandByte b)

/-! ## The reading of a recorded line trace (30_encoding.md R57) -/

/-- Eight data bits, the first clocked first, as a byte: the first clocked is bit 0 (20_memory.md R34). -/
def byteOfBits (bits : List Bool) : Byte :=
  BitVec.ofNat 8 (bits.foldr (fun d n => d.toNat + 2 * n) 0)

/-- The reader before the first event: both lines released, as `init` finds or leaves them (log 14). -/
def Scan.idle : Scan :=
  { clk := .rel, dio := .rel, inFrame := false, pulses := 0, bits := [], log := [] }

/-- One event of a recorded trace.  START is DIO falling while CLK is high, STOP is DIO rising while CLK is high; a
rising edge of CLK is a clock pulse, the first eight of a byte carry its bits, and the ninth carries the ACK bit, read
by the SAMPLE in it (30_encoding.md R57).  Bits of a byte that a STOP cuts short are dropped. -/
def scanEvent (s : Scan) : LineEvent → Scan
  | .drive .clk => { s with clk := .low }
  | .rel .clk =>
    match s.clk with
    | .rel => s
    | .low =>
      { s with
        clk := .rel
        pulses := s.pulses + 1
        bits := if s.inFrame ∧ s.pulses < 8 then s.bits ++ [decide (s.dio = .rel)] else s.bits }
  | .drive .dio =>
    if s.clk = .rel ∧ s.dio = .rel then
      { s with dio := .low, inFrame := true, pulses := 0, bits := [], log := s.log ++ [.start] }
    else { s with dio := .low }
  | .rel .dio =>
    if s.clk = .rel ∧ s.dio = .low then
      { s with dio := .rel, inFrame := false, pulses := 0, bits := [], log := s.log ++ [.stop] }
    else { s with dio := .rel }
  | .wait => s
  | .sample v =>
    if s.inFrame ∧ s.pulses = 9 then
      { s with pulses := 0, bits := [], log := s.log ++ [.byte (byteOfBits s.bits) (decide (v = .low))] }
    else s

/-- The whole of a recorded trace, read from the idle reader. -/
def scanTrace (t : List LineEvent) : Scan := t.foldl scanEvent Scan.idle

/-- The frames of a frame log, as lists of bytes: what stands between each START and its STOP. -/
def framesOfLog : List FrameEvent → List Byte → List (List Byte)
  | [], _ => []
  | .start :: rest, _ => framesOfLog rest []
  | .byte b _ :: rest, open_ => framesOfLog rest (open_ ++ [b])
  | .stop :: rest, open_ => open_ :: framesOfLog rest []

/-! ## The call syntax (30_encoding.md R61) -/

/-! The words of the call syntax, as characters. -/

/-- `init` -/
def CallWord.init : List Char := ['i', 'n', 'i', 't']
/-- `setBrightness` -/
def CallWord.setBrightness : List Char := ['s', 'e', 't', 'B', 'r', 'i', 'g', 'h', 't', 'n', 'e', 's', 's']
/-- `clear` -/
def CallWord.clear : List Char := ['c', 'l', 'e', 'a', 'r']
/-- `displayInteger` -/
def CallWord.displayInteger : List Char := ['d', 'i', 's', 'p', 'l', 'a', 'y', 'I', 'n', 't', 'e', 'g', 'e', 'r']
/-- `displayTime` -/
def CallWord.displayTime : List Char := ['d', 'i', 's', 'p', 'l', 'a', 'y', 'T', 'i', 'm', 'e']
/-- `setSegments` -/
def CallWord.setSegments : List Char := ['s', 'e', 't', 'S', 'e', 'g', 'm', 'e', 'n', 't', 's']
/-- `digitToSegment` -/
def CallWord.digitToSegment : List Char := ['d', 'i', 'g', 'i', 't', 'T', 'o', 'S', 'e', 'g', 'm', 'e', 'n', 't']
/-- `getSegments` -/
def CallWord.getSegments : List Char := ['g', 'e', 't', 'S', 'e', 'g', 'm', 'e', 'n', 't', 's']
/-- `start` -/
def CallWord.start : List Char := ['s', 't', 'a', 'r', 't']
/-- `stop` -/
def CallWord.stop : List Char := ['s', 't', 'o', 'p']
/-- `sendByte` -/
def CallWord.sendByte : List Char := ['s', 'e', 'n', 'd', 'B', 'y', 't', 'e']
/-- `drive` -/
def CallWord.drive : List Char := ['d', 'r', 'i', 'v', 'e']
/-- `release` -/
def CallWord.release : List Char := ['r', 'e', 'l', 'e', 'a', 's', 'e']
/-- `setData` -/
def CallWord.setData : List Char := ['s', 'e', 't', 'D', 'a', 't', 'a']
/-- `wait` -/
def CallWord.wait : List Char := ['w', 'a', 'i', 't']
/-- `sample` -/
def CallWord.sample : List Char := ['s', 'a', 'm', 'p', 'l', 'e']
/-- `true` -/
def CallWord.trueWord : List Char := ['t', 'r', 'u', 'e']
/-- `false` -/
def CallWord.falseWord : List Char := ['f', 'a', 'l', 's', 'e']
/-- `CLK` -/
def CallWord.clkWord : List Char := ['C', 'L', 'K']
/-- `DIO` -/
def CallWord.dioWord : List Char := ['D', 'I', 'O']

/-- The word read so far, if any, put before the tokens after it. -/
def flushWord (w : List Char) (ts : List Token) : List Token :=
  if w = [] then ts else .word w :: ts

/-- The punctuation of a call. -/
def punctuation (c : Char) : Option Token :=
  if c = '-' then some .minus
  else if c = '(' then some .lparen
  else if c = ')' then some .rparen
  else if c = '[' then some .lbrack
  else if c = ']' then some .rbrack
  else if c = ',' then some .comma
  else none

/-- The tokens of a line; `w` is the word being read.  "A comment starts with `;`" (R61) and runs to the end of the
line; blanks separate words and are otherwise ignored (log 10). -/
def tokensFrom (w : List Char) : List Char → Except DecodeError (List Token)
  | [] => .ok (flushWord w [])
  | c :: cs =>
    if wordChar c then tokensFrom (w ++ [c]) cs
    else if c = ';' then .ok (flushWord w [])
    else if c = ' ' ∨ c = '\t' then
      match tokensFrom [] cs with
      | .ok ts => .ok (flushWord w ts)
      | .error e => .error e
    else
      match punctuation c with
      | none => .error (.badCharacter c)
      | some t =>
        match tokensFrom [] cs with
        | .ok ts => .ok (flushWord w (t :: ts))
        | .error e => .error e

/-- How far a character stands after the first one of a run of `count` consecutive characters; none outside the run. -/
def placeInRun (first : Char) (count : Nat) (c : Char) : Option Nat :=
  (List.range count).find? fun k => c.toNat == first.toNat + k

/-- The value of a digit of the literals of 00_scope.md R10, of which the hexadecimal ones go furthest: the ten decimal
digits, and six letters of either case that count on from ten (the lower case is the model's, log 10). -/
def digitValue (c : Char) : Option Nat :=
  let letter := (placeInRun 'A' 6 c).or (placeInRun 'a' 6 c)
  (placeInRun '0' 10 c).or (letter.map (10 + ·))

/-- Digits in a base, most significant first, read on from a value; none where a character is no digit of the base. -/
def readDigits (base : Nat) (acc : Nat) : List Char → Option Nat
  | [] => some acc
  | c :: cs =>
    match digitValue c with
    | none => none
    | some d => if d < base then readDigits base (base * acc + d) cs else none

/-- A natural number: `0xNN` hexadecimal, `0bNNNNNNNN` binary, or decimal (00_scope.md R10). -/
def readNat : List Char → Option Nat
  | [] => none
  | '0' :: 'b' :: d :: ds => readDigits 2 0 (d :: ds)
  | '0' :: 'x' :: d :: ds => readDigits 16 0 (d :: ds)
  | c :: cs => readDigits 10 0 (c :: cs)

/-- One token of an argument list. -/
def readArgToken (r : ArgReader) (t : Token) : Option ArgReader :=
  match r.mode, t with
  | .first, .rparen => some { r with mode := .closed }
  | .first, .word w | .arg, .word w => some { r with mode := .after, args := r.args ++ [.word w] }
  | .first, .minus | .arg, .minus => some { r with mode := .negated }
  | .first, .lbrack | .arg, .lbrack => some { r with mode := .listFirst, items := [] }
  | .negated, .word w => some { r with mode := .after, args := r.args ++ [.negative w] }
  | .after, .comma => some { r with mode := .arg }
  | .after, .rparen => some { r with mode := .closed }
  | .listFirst, .rbrack => some { r with mode := .after, args := r.args ++ [.list []] }
  | .listFirst, .word w | .listItem, .word w =>
    match readNat w with
    | some n => some { r with mode := .listAfter, items := r.items ++ [n] }
    | none => none
  | .listAfter, .comma => some { r with mode := .listItem }
  | .listAfter, .rbrack => some { mode := .after, args := r.args ++ [.list r.items], items := [] }
  | _, _ => none

/-- The tokens of an argument list after its opening parenthesis, up to a closing one that ends the line. -/
def readArgTokens (r : ArgReader) : List Token → Option (List Arg)
  | [] => if r.mode = .closed then some r.args else none
  | t :: ts =>
    match readArgToken r t with
    | some r' => readArgTokens r' ts
    | none => none

/-- An argument that is an integer. -/
def Arg.int : Arg → Option Int
  | .word w => (readNat w).map Int.ofNat
  | .negative w => (readNat w).map fun n => -(Int.ofNat n)
  | .list _ => none

/-- An argument that is a natural number. -/
def Arg.nat : Arg → Option Nat
  | .word w => readNat w
  | .negative _ | .list _ => none

/-- An argument that is `true` or `false`. -/
def Arg.bool : Arg → Option Bool
  | .word w => if w = CallWord.trueWord then some true else if w = CallWord.falseWord then some false else none
  | .negative _ | .list _ => none

/-- An argument that is the bit 0 or 1 of `setData` (40_transport.md R67).  R61 does not spell that call: the model takes
the bit in every spelling of a number, as it takes any other natural argument, and no number but 0 and 1 (DESIGN CHOICE,
log 10). -/
def Arg.bit (a : Arg) : Option Bool :=
  match a.nat with
  | some 0 => some false
  | some 1 => some true
  | some (_ + 2) | none => none

/-- An argument that is a line identifier: a word. -/
def Arg.lineId : Arg → Option LineId
  | .word w => some ⟨w⟩
  | .negative _ | .list _ => none

/-- An argument that is one of the two lines, `CLK` or `DIO` (00_scope.md R11). -/
def Arg.wire : Arg → Option Line
  | .word w => if w = CallWord.clkWord then some .clk else if w = CallWord.dioWord then some .dio else none
  | .negative _ | .list _ => none

/-- An argument that is a list of naturals. -/
def Arg.nats : Arg → Option (List Nat)
  | .list xs => some xs
  | .word _ | .negative _ => none

/-- The call of `init`; "an omitted `bitDelayUs` of `init` is `100`" (R61). -/
def readInit : List Arg → Option Instr
  | [clk, dio, level, delay, retain] => do
    return .init (← clk.lineId) (← dio.lineId) (← level.int) (← delay.nat) (← retain.bool)
  | [clk, dio, level, retain] => do
    return .init (← clk.lineId) (← dio.lineId) (← level.int) Machine.defaultBitDelayUs (← retain.bool)
  | _ => none

/-- The call of `setSegments`; "Omitted trailing arguments of `setSegments` take the source's defaults" (R61). -/
def readSetSegments : List Arg → Option Instr
  | [segs] => do return .setSegments (← segs.nats) Machine.defaultNumDigits Machine.defaultFirstPosition
  | [segs, n] => do return .setSegments (← segs.nats) (← n.nat) Machine.defaultFirstPosition
  | [segs, n, p] => do return .setSegments (← segs.nats) (← n.nat) (← p.int)
  | _ => none

/-- A call without arguments. -/
def readNone (i : Instr) : List Arg → Option Instr
  | [] => some i
  | _ :: _ => none

/-- A call with one integer argument. -/
def readInt (f : Int → Instr) : List Arg → Option Instr
  | [x] => x.int.map f
  | _ => none

/-- The operations by name: the public ones and the internal transport operations as R61 spells them, the line
primitives, which R61 does not spell, as the pseudocode of 00_scope.md R12 does (DESIGN CHOICE, log 10). -/
def callTable : List (List Char × (List Arg → Option Instr)) :=
  [ (CallWord.init, readInit),
    (CallWord.setBrightness, readInt .setBrightness),
    (CallWord.clear, readNone .clear),
    (CallWord.displayInteger, readInt .displayInteger),
    (CallWord.displayTime, fun | [a, b] => do return .displayTime (← a.int) (← b.int) | _ => none),
    (CallWord.setSegments, readSetSegments),
    (CallWord.digitToSegment, readInt .digitToSegment),
    (CallWord.getSegments, readNone .getSegments) ] ++
  [ (CallWord.start, readNone .start),
    (CallWord.stop, readNone .stop),
    (CallWord.sendByte, fun | [b] => b.nat.map .sendByte | _ => none),
    (CallWord.drive, fun | [l] => l.wire.map .drive | _ => none),
    (CallWord.release, fun | [l] => l.wire.map .release | _ => none),
    (CallWord.setData, fun | [d] => d.bit.map .setData | _ => none),
    (CallWord.wait, readNone .wait),
    (CallWord.sample, fun | [l] => if l.wire = some .dio then some .sample else none | _ => none) ]

/-- The operation a name and its arguments call. -/
def readCall (name : List Char) (args : List Arg) : Except DecodeError Instr :=
  match callTable.lookup name with
  | none => .error (.unknownOperation name)
  | some read =>
    match read args with
    | none => .error (.badArguments name)
    | some i => .ok i

/-- One line of call syntax (30_encoding.md R61). -/
def decodeLine (text : List Char) : Except DecodeError Instr :=
  match tokensFrom [] text with
  | .error e => .error e
  | .ok [] => .error .noCall
  | .ok (.word name :: .lparen :: ts) =>
    match readArgTokens { mode := .first, args := [], items := [] } ts with
    | none => .error .notACall
    | some args => readCall name args
  | .ok _ => .error .notACall

/-! ## The rows of spec/opcode_table.json -/

/-- An instruction's mnemonic, as the table spells it. -/
def mnemonic : Instr → List Char
  | .dataWrite => ['D', 'A', 'T', 'A', '_', 'W', 'R', 'I', 'T', 'E']
  | .addrSet _ => ['A', 'D', 'D', 'R', '_', 'S', 'E', 'T']
  | .displayCtrl _ => ['D', 'I', 'S', 'P', 'L', 'A', 'Y', '_', 'C', 'T', 'R', 'L']
  | .segmentData _ => ['S', 'E', 'G', 'M', 'E', 'N', 'T', '_', 'D', 'A', 'T', 'A']
  | .drive _ => CallWord.drive
  | .release _ => CallWord.release
  | .setData _ => CallWord.setData
  | .wait => CallWord.wait
  | .sample => CallWord.sample
  | .start => CallWord.start
  | .stop => CallWord.stop
  | .sendByte _ => CallWord.sendByte
  | .init _ _ _ _ _ => CallWord.init
  | .setSegments _ _ _ => CallWord.setSegments
  | .setBrightness _ => CallWord.setBrightness
  | .clear => CallWord.clear
  | .getSegments => CallWord.getSegments
  | .digitToSegment _ => CallWord.digitToSegment
  | .displayInteger _ => CallWord.displayInteger
  | .displayTime _ _ => CallWord.displayTime

/-- The mask and match of a row, where the table gives it bits (30_encoding.md R51-R54). -/
def rowBits : Instr → Option (Byte × Byte)
  | .dataWrite => some (0xFF#8, 0x40#8)
  | .addrSet _ => some (0xFC#8, 0xC0#8)
  | .displayCtrl _ => some (0xF8#8, 0x88#8)
  | .segmentData _ => some (0x00#8, 0x00#8)
  | .drive _ => none
  | .release _ => none
  | .setData _ => none
  | .wait => none
  | .sample => none
  | .start => none
  | .stop => none
  | .sendByte _ => none
  | .init _ _ _ _ _ => none
  | .setSegments _ _ _ => none
  | .setBrightness _ => none
  | .clear => none
  | .getSegments => none
  | .digitToSegment _ => none
  | .displayInteger _ => none
  | .displayTime _ _ => none

/-! ## The decoder of requests -/

/-- The operation a request stands for, or why it stands for none. -/
def decode : Request → Except DecodeError Instr
  | .call i => .ok i
  | .line text => decodeLine text
  | .command b => decodeCommand b
  | .payload b => .ok (decodePayload b)

/-- A request that a host program may make: it stands for a public operation (30_encoding.md R61, D19). -/
def Request.isHostCall (r : Request) : Bool :=
  match decode r with
  | .ok i => i.hostCallable
  | .error _ => false

/-- The instruction whose bits, numbered as spec/opcode_table.json numbers them, are `w`.  The table gives bits to the
four wire bytes only, eight each; every other row has "none: call term, no binary encoding" (D1). -/
def decodeTableWord (nbits w : Nat) : Option Instr :=
  if nbits = 8 ∧ w < 256 then
    match decode (requestOfByte (BitVec.ofNat 8 w)) with
    | .ok i => some i
    | .error _ => none
  else none

/-! ## Encoding: wire bytes, bit cells, bytes, frames -/

/-- Command 2 (30_encoding.md R52): `0xC0 | aa`. -/
def addressByte (aa : BitVec 2) : Byte := 0xC0#8 ||| aa.setWidth 8

/-- Command 3 (30_encoding.md R53): `0x80 | (brightness & 0x0F)`, the brightness nibble holding E and the level. -/
def controlByte (ctrl : BitVec 4) : Byte := 0x80#8 ||| (ctrl.setWidth 8 &&& 0x0F#8)

/-- The control nibble of a level with the display enabled (10_state.md R20): `(1 << 3) | LVL`. -/
def enabledNibble (lll : BitVec 3) : BitVec 4 := 0x8#4 ||| lll.setWidth 4

/-- The bytes of a frame in the order they are sent (30_encoding.md R56, 20_memory.md R35). -/
def encodeFrame : WireFrame → List Byte
  | .dataWrite => [Machine.dataWriteByte]
  | .address aa payload => addressByte aa :: payload
  | .control lll => [controlByte (enabledNibble lll)]

/-- The bits of a byte in the order they are clocked, bit 0 first (20_memory.md R34). -/
def lsbFirst (b : Byte) : List Bool :=
  [b.getLsbD 0, b.getLsbD 1, b.getLsbD 2, b.getLsbD 3, b.getLsbD 4, b.getLsbD 5, b.getLsbD 6, b.getLsbD 7]

/-- The five line events of a data bit (30_encoding.md R48). -/
def bitCell (d : Bool) : List LineEvent :=
  [.drive .clk, if d then .rel .dio else .drive .dio, .wait, .rel .clk, .wait]

/-- The six line events of the ACK cell (30_encoding.md R49). -/
def ackCell (v : Level) : List LineEvent :=
  [.drive .clk, .rel .dio, .rel .clk, .wait, .sample v, .drive .clk]

/-- The line events of a byte whose ACK sample reads `v` (30_encoding.md R50). -/
def byteEvents (b : Byte) (v : Level) : List LineEvent :=
  (lsbFirst b).flatMap bitCell ++ ackCell v

/-- The line events of START (40_transport.md R70). -/
def startEvents : List LineEvent := [.rel .dio, .rel .clk, .wait, .drive .dio]

/-- The line events of STOP (40_transport.md R71). -/
def stopEvents : List LineEvent :=
  [.drive .clk, .wait, .drive .dio, .wait, .rel .clk, .wait, .rel .dio]

/-- The line events of a frame: its bytes, each with the level its ACK sample reads (30_encoding.md R56). -/
def frameLineEvents (bytes : List (Byte × Level)) : List LineEvent :=
  startEvents ++ bytes.flatMap (fun p => byteEvents p.1 p.2) ++ stopEvents

/-- The transport events of the same frame (30_encoding.md R56). -/
def frameLogEvents (bytes : List (Byte × Level)) : List FrameEvent :=
  .start :: bytes.map (fun p => .byte p.1 (decide (p.2 = .low))) ++ [.stop]

/-! ## Encoding: call syntax -/

/-- A decimal digit. -/
def digitChar (d : Nat) : Char := Char.ofNat ('0'.toNat + d)

/-- The decimal digits of a number below `10 ^ fuel`, most significant first. -/
def decimalDigits : Nat → Nat → List Char
  | 0, _ => []
  | fuel + 1, n => if n < 10 then [digitChar n] else decimalDigits fuel (n / 10) ++ [digitChar (n % 10)]

/-- A natural number in decimal. -/
def natText (n : Nat) : List Char := decimalDigits (n + 1) n

/-- An integer in decimal. -/
def intText : Int → List Char
  | .ofNat n => natText n
  | .negSucc n => '-' :: natText (n + 1)

/-- `true` or `false`. -/
def boolText (b : Bool) : List Char := if b then CallWord.trueWord else CallWord.falseWord

/-- `CLK` or `DIO` (00_scope.md R11). -/
def wireText : Line → List Char
  | .clk => CallWord.clkWord
  | .dio => CallWord.dioWord

/-- Texts with a comma and a blank between them. -/
def commaSeparated : List (List Char) → List Char
  | [] => []
  | [t] => t
  | t :: u :: rest => t ++ ',' :: ' ' :: commaSeparated (u :: rest)

/-- A bracketed list of naturals. -/
def natsText (xs : List Nat) : List Char := '[' :: commaSeparated (xs.map natText) ++ [']']

/-- A call as R61 writes it. -/
def callText (name : List Char) (args : List (List Char)) : List Char :=
  name ++ '(' :: commaSeparated args ++ [')']

/-- The encoding of an instruction: the wire byte with its place in a frame for the four rows the table gives bits
(30_encoding.md R51-R54), a line of call syntax for every other row (R61, every argument written). -/
def encode : Instr → Request
  | .dataWrite => .command Machine.dataWriteByte
  | .addrSet aa => .command (addressByte aa)
  | .displayCtrl lll => .command (controlByte (enabledNibble lll))
  | .segmentData b => .payload b
  | .drive l => .line (callText CallWord.drive [wireText l])
  | .release l => .line (callText CallWord.release [wireText l])
  | .setData d => .line (callText CallWord.setData [[if d then '1' else '0']])
  | .wait => .line (callText CallWord.wait [])
  | .sample => .line (callText CallWord.sample [wireText .dio])
  | .start => .line (callText CallWord.start [])
  | .stop => .line (callText CallWord.stop [])
  | .sendByte b => .line (callText CallWord.sendByte [natText b])
  | .init clk dio level delay retain =>
    .line (callText CallWord.init [clk.name, dio.name, intText level, natText delay, boolText retain])
  | .setSegments segs n p => .line (callText CallWord.setSegments [natsText segs, natText n, intText p])
  | .setBrightness level => .line (callText CallWord.setBrightness [intText level])
  | .clear => .line (callText CallWord.clear [])
  | .getSegments => .line (callText CallWord.getSegments [])
  | .digitToSegment v => .line (callText CallWord.digitToSegment [intText v])
  | .displayInteger x => .line (callText CallWord.displayInteger [intText x])
  | .displayTime a b => .line (callText CallWord.displayTime [intText a, intText b])

end Sys2Proof
end

