-- ==== Sys2Proof/Machine/State.lean ====
section
/-!
DEFINITION. The state of the machine as plain data: the record `st` of spec/10_state.md R15, the parameters of the
block instance, the model's observation (spec/00_scope.md R13), the environment's inputs, and the state right after
reset (spec/70_reset_and_hazards.md R114).
-/

namespace Sys2Proof.Machine

/-- A four-byte pattern or snapshot, index 0..3 = display position 0..3 (10_state.md R24). -/
abbrev Pattern := Vector Byte 4

/-- The reasons of a `Fault` outcome (60_exceptions.md R101). -/
inductive FaultReason where
  /-- `Fault(BadDigitCount)`, raised by `setSegments` (41_command_protocol.md R80). -/
  | badDigitCount
  deriving DecidableEq, Repr

/-- The reasons of a `Refused` outcome (60_exceptions.md R101). -/
inductive RefusalReason where
  /-- Every operation but `init` and `digitToSegment`, before `init` (41_command_protocol.md R78). -/
  | notInitialised
  /-- A second `init` (41_command_protocol.md R87). -/
  | alreadyInitialised
  /-- `init` with the same line twice (41_command_protocol.md R87). -/
  | sameLine
  /-- `getSegments` without a snapshot (41_command_protocol.md R86). -/
  | noSnapshot
  deriving DecidableEq, Repr

/-- The sticky record of a fault or refusal, `st.halt` where it is not `none` (10_state.md R15, 60_exceptions.md R103). -/
inductive Halt where
  | fault (r : FaultReason)
  | refused (r : RefusalReason)
  deriving DecidableEq, Repr

/-- What an operation returns to its caller on normal completion. -/
inductive Result where
  /-- `return ()` -/
  | unit
  /-- the ACK result of `sendByte` (40_transport.md R72) -/
  | ack (a : Bool)
  /-- the level `sample` reads (40_transport.md R69) -/
  | level (v : Level)
  /-- the segment byte of `digitToSegment` (42_digit_encoding.md R90) -/
  | byte (b : Byte)
  /-- the four bytes of `getSegments` (41_command_protocol.md R86) -/
  | pattern (v : Pattern)
  deriving DecidableEq, Repr

/-- The outcome of one operation (60_exceptions.md R101). -/
inductive CallOutcome where
  | done (r : Result)
  | ignored
  | fault (r : FaultReason)
  | refused (r : RefusalReason)
  deriving DecidableEq, Repr

/-- The record `st` of 10_state.md R15, field by field. -/
structure Block where
  /-- `st.clkLine` -/
  clkLine : LineId
  /-- `st.dioLine` -/
  dioLine : LineId
  /-- `st.bitDelay`, microseconds -/
  bitDelay : Nat
  /-- `st.ctrl`: bit 3 = E (display enabled), bits 2:0 = LVL (R20) -/
  ctrl : BitVec 4
  /-- `st.retain` -/
  retain : Bool
  /-- `st.snap`: "It exists only when `st.retain = true`" (R24), so absence is the spec's own -/
  snap : Option Pattern
  /-- `st.clk`, the drive state of CLK (R26) -/
  clk : Drive
  /-- `st.dio`, the drive state of DIO (R26) -/
  dio : Drive
  /-- `st.initialised` -/
  initialised : Bool
  /-- `st.halt` -/
  halt : Option Halt
  deriving DecidableEq, Repr

/-- The state of the machine. -/
structure State where
  /-- the block's record (10_state.md R15) -/
  st : Block
  /-- the parameters of the instance; no operation writes them (00_scope.md R8) -/
  params : Params
  /-- the line trace, oldest event first (00_scope.md R13) -/
  trace : List LineEvent
  /-- the frame log, oldest event first (00_scope.md R13) -/
  frames : List FrameEvent
  /-- what each executed operation returned to its caller, oldest first (60_exceptions.md R101; log 7) -/
  outcomes : List CallOutcome
  /-- INPUT: the requests the host has placed, oldest first (log 3) -/
  pending : List Request
  /-- INPUT: the environment's coming draws, one per SAMPLE, as far as it has fixed them (log 2) -/
  rx : List Draw
  /-- the number of SAMPLEs taken: the argument of the free value `Config.receiverDraw` (log 2) -/
  draws : Nat
  deriving DecidableEq, Repr

/-- Why the machine stops with a fault. -/
inductive Fault where
  /-- Raised by `step` alone, in a state whose `st.halt` holds `Fault(r)`: "no operation has a step from a state with
  `st.halt ≠ none`" (60_exceptions.md R103).  Safe: "the original software goes on running after such a call". -/
  | halted (r : FaultReason)
  deriving DecidableEq, Repr

/-- Why the machine gives no meaning. -/
inductive Refusal where
  /-- Raised by `step` alone, in a state whose `st.halt` holds `Refused(r)` (60_exceptions.md R103).  Safe. -/
  | halted (r : RefusalReason)
  /-- Raised by `step` alone, when the oldest request stands for no operation (30_encoding.md R59, R61).  Safe. -/
  | undecodable (e : DecodeError)
  /-- Raised by `exec`'s arm of an instruction without a meaning; no arm is one.  Safe. -/
  | notModelled (mnemonic : String)
  deriving DecidableEq, Repr

/-- The record before `init` (70_reset_and_hazards.md R114): `initialised = false` and `halt = none` are the spec's.
Every other value is DESIGN CHOICE (log 1), unsafe; `ctrl` has its hard-wired bit set (10_state.md R20). -/
def Block.beforeInit : Block :=
  { clkLine := ⟨[]⟩
    dioLine := ⟨[]⟩
    bitDelay := 0
    ctrl := 0x8#4
    retain := false
    snap := none
    clk := .rel
    dio := .rel
    initialised := false
    halt := none }

/-- The machine right after reset: before `init`, nothing observed, no request placed, no draw fixed. -/
def State.reset : State :=
  { st := Block.beforeInit
    params := defaultParams
    trace := []
    frames := []
    outcomes := []
    pending := []
    rx := []
    draws := 0 }

end Sys2Proof.Machine
end

