-- ==== Sys2Proof/Machine/Operands.lean ====
section
/-!
DEFINITION. Operand forms: the masks and ranges the operations apply to their arguments
(spec/20_memory.md R32, R37; spec/10_state.md R20-R22; spec/41_command_protocol.md R80, R82) and the digit patterns
(spec/42_digit_encoding.md R90-R97).
-/

namespace Sys2Proof.Machine

/-- `zext_8(v) = v[7:0]` (00_scope.md R12, D14). -/
def zext8 (v : Nat) : Byte := BitVec.ofNat 8 v

/-- `firstPosition & 0x03`, that is `firstPosition mod 4` (20_memory.md R32). -/
def positionField (firstPosition : Int) : BitVec 2 := BitVec.ofNat 2 (firstPosition % 4).toNat

/-- `level mod 8` (41_command_protocol.md R84, D5). -/
def levelField (level : Int) : BitVec 3 := BitVec.ofNat 3 (level % 8).toNat

/-- `0x8 | (level mod 8)`: what a write of the control register leaves (10_state.md R20, R21); bit 3 is hard-wired 1. -/
def ctrlOfLevel (level : Int) : BitVec 4 := enabledNibble (levelField level)

/-- Whether `check` raises `Fault(BadDigitCount)` (41_command_protocol.md R80). -/
def badDigitCount (segments : List Byte) (numDigits : Nat) (firstPosition : Int) : Bool :=
  decide (segments.length < numDigits) || decide (numPositions < (positionField firstPosition).toNat + numDigits)

/-- The four blank bytes. -/
def blankPattern : Pattern := Vector.replicate 4 blankByte

/-- `snap[at + i] <- bytes[i]` for each byte in turn (41_command_protocol.md R82, 20_memory.md R33). -/
def writeAt (snap : Pattern) (pos : Nat) : List Byte → Pattern
  | [] => snap
  | b :: bs => writeAt (snap.setIfInBounds pos b) (pos + 1) bs

/-- `snapUpdate` (41_command_protocol.md R82): zeroed in full, then the written bytes at their positions. -/
def snapUpdate (bytes : List Byte) (p : BitVec 2) : Pattern := writeAt blankPattern p.toNat bytes

/-- `seg(k)`: `SEG_LUT[value & 0x0F]` (42_digit_encoding.md R90). -/
def seg (lut : Vector Byte 16) (value : Int) : Byte := lut[(value % 16).toNat]'(by omega)

/-- `displayInteger` accepts `x` exactly when `-999 ≤ x ≤ 9999` (42_digit_encoding.md R91). -/
def intAccepted (x : Int) : Bool := decide (-999 ≤ x) && decide (x ≤ 9999)

/-- Thousands, hundreds, tens, units (42_digit_encoding.md R92). -/
def decimalPlaces (m : Nat) : List Nat := [m / 1000, (m / 100) % 10, (m / 10) % 10, m % 10]

/-- The number of suppressed leading positions: the zeros before the first non-zero digit, the units digit never
counted (42_digit_encoding.md R92). -/
def suppressed (d : List Nat) : Nat := ((d.take 3).takeWhile (fun k => k = 0)).length

/-- `intPattern(x)` (42_digit_encoding.md R92). -/
def intPattern (lut : Vector Byte 16) (x : Int) : List Byte :=
  let d := decimalPlaces x.natAbs
  let lead := suppressed d
  let out := List.replicate lead blankByte ++ (d.drop lead).map (fun (k : Nat) => seg lut (k : Int))
  if x < 0 then out.set (lead - 1) minusByte else out

/-- `displayTime` accepts exactly when both fields are in 0..99 (42_digit_encoding.md R96). -/
def timeAccepted (a b : Int) : Bool :=
  decide (0 ≤ a) && decide (a ≤ 99) && decide (0 ≤ b) && decide (b ≤ 99)

/-- `timePattern(a, b)` (42_digit_encoding.md R97). -/
def timePattern (lut : Vector Byte 16) (a b : Int) : List Byte :=
  [seg lut (a / 10), seg lut (a % 10) ||| colonByte, seg lut (b / 10), seg lut (b % 10)]

end Sys2Proof.Machine
end

