-- ==== Sys2Proof/Machine/Flags.lean ====
section
/-!
DEFINITION. Conditions and levels.  There is no stored flag (spec/10_state.md R19): the one condition the block
computes is the acknowledgment of a byte (spec/40_transport.md R74), from the level of DIO (spec/10_state.md R27).
-/

namespace Sys2Proof.Machine

/-- `level(DIO)` (10_state.md R27): low when the block drives it low or the receiver pulls it; otherwise high by the
pull-up, and without one the level it floats to (D15). -/
def dioLevel (pullup : Bool) (dio : Drive) (x : Draw) : Level :=
  if dio = .low ∨ x.pullDIO = true then .low
  else if pullup then .high
  else x.floats

/-- `level(CLK)` (10_state.md R27): "The receiver never drives CLK".  No operation reads it (R28). -/
def clkLevel (pullup : Bool) (clk : Drive) (floats : Level) : Level :=
  if clk = .low then .low
  else if pullup then .high
  else floats

/-- `ack <- (v = L)` (40_transport.md R72, R74). -/
def ackOf (v : Level) : Bool := decide (v = .low)

/-- The code of an outcome (60_exceptions.md R101). -/
def outcomeCode : CallOutcome → Nat
  | .done _ => 0
  | .ignored => 1
  | .fault .badDigitCount => 2
  | .refused .notInitialised => 3
  | .refused .alreadyInitialised => 4
  | .refused .sameLine => 5
  | .refused .noSnapshot => 6

end Sys2Proof.Machine
end

