-- ==== Sys2Proof/Machine/Ops.lean ====
section
/-!
DEFINITION. The named operations over the state: the line-driver interface, START, STOP and `sendByte`
(spec/40_transport.md), one frame, the body of `setSegments` (spec/41_command_protocol.md R79), and the ending of an
operation with its outcome (spec/60_exceptions.md R101-R105), which is this block's only form of exception.
-/

namespace Sys2Proof.Machine

/-! ## The line-driver interface (40_transport.md R64-R69) -/

/-- Append a line event to the trace (00_scope.md R12). -/
def record (e : LineEvent) (s : State) : State := { s with trace := s.trace ++ [e] }

/-- `emit(F)`: append a transport event to the frame log (00_scope.md R12). -/
def emit (f : FrameEvent) (s : State) : State := { s with frames := s.frames ++ [f] }

/-- The drive state a line was last given, written in its one home (10_state.md R26). -/
def setDrive (l : Line) (d : Drive) (s : State) : State :=
  match l with
  | .clk => { s with st := { s.st with clk := d } }
  | .dio => { s with st := { s.st with dio := d } }

/-- `drive(ℓ)` (40_transport.md R65); recorded even when the line is low already (D18). -/
def driveLine (l : Line) (s : State) : State := record (.drive l) (setDrive l .low s)

/-- `release(ℓ)` (40_transport.md R66); recorded even when the line is released already. -/
def releaseLine (l : Line) (s : State) : State := record (.rel l) (setDrive l .rel s)

/-- `setData(d)` (40_transport.md R67): drive low for 0, release for 1. -/
def setDataLine (d : Bool) (s : State) : State := if d then releaseLine .dio s else driveLine .dio s

/-- `wait()` (40_transport.md R68): one bit period, seen as one event (log 12). -/
def waitBit (s : State) : State := record .wait s

/-- The environment's draw at the next SAMPLE: the next one it has fixed, else the free value (60_exceptions.md R109). -/
def nextDraw (s : State) : Draw :=
  match s.rx with
  | d :: _ => d
  | [] => Config.receiverDraw s.draws

/-- The draw is used up. -/
def takeDraw (s : State) : State := { s with rx := s.rx.tail, draws := s.draws + 1 }

/-- The level a SAMPLE in this state reads (10_state.md R27). -/
def sampledLevel (s : State) : Level := dioLevel s.params.pullupPresent s.st.dio (nextDraw s)

/-- `v <- sample(DIO)` (40_transport.md R69). -/
def sampleDio (s : State) : Level × State :=
  (sampledLevel s, record (.sample (sampledLevel s)) (takeDraw s))

/-! ## START, STOP, sendByte (40_transport.md R70-R73) -/

/-- `start()` (40_transport.md R70). -/
def transportStart (s : State) : State :=
  s |> releaseLine .dio |> releaseLine .clk |> waitBit |> driveLine .dio |> emit .start

/-- `stop()` (40_transport.md R71). -/
def transportStop (s : State) : State :=
  s |> driveLine .clk |> waitBit |> driveLine .dio |> waitBit |> releaseLine .clk |> waitBit
    |> releaseLine .dio |> emit .stop

/-- One bit of `sendByte` (40_transport.md R72). -/
def clockBit (s : State) (d : Bool) : State :=
  s |> driveLine .clk |> setDataLine d |> waitBit |> releaseLine .clk |> waitBit

/-- The ACK window of `sendByte` (40_transport.md R73): the level sampled, and the state after it. -/
def ackWindow (s : State) : Level × State :=
  let (v, s') := s |> driveLine .clk |> releaseLine .dio |> releaseLine .clk |> waitBit |> sampleDio
  (v, driveLine .clk s')

/-- `ack <- sendByte(b)` (40_transport.md R72): eight bits, bit 0 first, then the ACK window. -/
def transportSendByte (b : Byte) (s : State) : Bool × State :=
  let (v, s') := ackWindow ((lsbFirst b).foldl clockBit s)
  (ackOf v, emit (.byte b (ackOf v)) s')

/-- `sendByte(b)` with its result discarded (41_command_protocol.md R81). -/
def sendDiscarding (s : State) (b : Byte) : State := (transportSendByte b s).2

/-- One frame: START, the bytes in order, STOP (30_encoding.md R56). -/
def sendFrame (bytes : List Byte) (s : State) : State :=
  transportStop (bytes.foldl sendDiscarding (transportStart s))

/-! ## The ending of an operation (60_exceptions.md R101-R105) -/

/-- What `st.halt` is after an outcome: "Such an outcome sets `st.halt` to it" (60_exceptions.md R103). -/
def haltAfter (h : Option Halt) : CallOutcome → Option Halt
  | .done _ => h
  | .ignored => h
  | .fault r => some (.fault r)
  | .refused r => some (.refused r)

/-- End an operation with an outcome: `Fault` and `Refused` set `st.halt`, `Done` and `Ignored` write nothing; "No
outcome saves state, changes a mode, masks anything or transfers control" (60_exceptions.md R105). -/
def conclude (o : CallOutcome) (s : State) : State :=
  { s with st := { s.st with halt := haltAfter s.st.halt o }, outcomes := s.outcomes ++ [o] }

/-- An operation that needs `init` (41_command_protocol.md R78). -/
def requireInit (body : State → State) (s : State) : State :=
  if s.st.initialised then body s else conclude (.refused .notInitialised) s

/-! ## The body of `setSegments` (41_command_protocol.md R79-R82) -/

/-- The three frames F1, F2, F3 in order (30_encoding.md R58).  The control byte is read when F3 is sent. -/
def sendThreeFrames (payload : List Byte) (p : BitVec 2) (s : State) : State :=
  let s := sendFrame [dataWriteByte] s
  let s := sendFrame (addressByte p :: payload) s
  sendFrame [controlByte s.st.ctrl] s

/-- "`if st.retain then snapUpdate`" (41_command_protocol.md R79, R82). -/
def retainSnapshot (payload : List Byte) (p : BitVec 2) (s : State) : State :=
  if s.st.retain then { s with st := { s.st with snap := some (snapUpdate payload p) } } else s

/-- `setSegments` after its check of `st.initialised` (41_command_protocol.md R79): the bytes after `numDigits` are
neither sent nor stored (D29). -/
def setSegmentsBody (segments : List Byte) (numDigits : Nat) (firstPosition : Int) (s : State) : State :=
  if badDigitCount segments numDigits firstPosition then conclude (.fault .badDigitCount) s
  else
    let p := positionField firstPosition
    let payload := segments.take numDigits
    s |> sendThreeFrames payload p |> retainSnapshot payload p |> conclude (.done .unit)

/-- `setSegments` (41_command_protocol.md R79). -/
def setSegmentsOp (segments : List Byte) (numDigits : Nat) (firstPosition : Int) (s : State) : State :=
  requireInit (setSegmentsBody segments numDigits firstPosition) s

/-- The writes of a completed `init` (41_command_protocol.md R87, 70_reset_and_hazards.md R115). -/
def initialise (clk dio : LineId) (level : Int) (bitDelayUs : Nat) (retain : Bool) (s : State) : State :=
  let s := { s with
    st := { s.st with
      clkLine := clk
      dioLine := dio
      bitDelay := bitDelayUs
      ctrl := ctrlOfLevel level
      retain := retain
      snap := if retain then some blankPattern else none } }
  let s := s |> releaseLine .clk |> releaseLine .dio
  { s with st := { s.st with initialised := true } }

end Sys2Proof.Machine
end

