-- ==== Sys2Proof/Machine/Digits.lean ====
section
/-!
DEFINITION. The host operations of spec/42_digit_encoding.md R90-R98.
-/

namespace Sys2Proof.Machine

/-- `digitToSegment` (42_digit_encoding.md R90): it needs no `init` (41_command_protocol.md R78). -/
def execDigitToSegment (value : Int) (s : State) : Host.Outcome State Fault Refusal :=
  .next (conclude (.done (.byte (seg s.params.segLut value))) s)

/-- `displayInteger` (42_digit_encoding.md R94). -/
def execDisplayInteger (x : Int) (s : State) : Host.Outcome State Fault Refusal :=
  .next (requireInit
    (fun s => if intAccepted x then setSegmentsOp (intPattern s.params.segLut x) 4 0 s else conclude .ignored s) s)

/-- `displayTime` (42_digit_encoding.md R98). -/
def execDisplayTime (a b : Int) (s : State) : Host.Outcome State Fault Refusal :=
  .next (requireInit
    (fun s => if timeAccepted a b then setSegmentsOp (timePattern s.params.segLut a b) 4 0 s else conclude .ignored s) s)

end Sys2Proof.Machine
end

