-- ==== Sys2Proof/Machine/Lines.lean ====
section
/-!
DEFINITION. The line primitives of spec/40_transport.md R65-R69.  "None of them checks an argument or a state" (R63).
-/

namespace Sys2Proof.Machine

/-- `drive(ℓ)` (40_transport.md R65). -/
def execDrive (l : Line) (s : State) : Host.Outcome State Fault Refusal :=
  .next (conclude (.done .unit) (driveLine l s))

/-- `release(ℓ)` (40_transport.md R66). -/
def execRelease (l : Line) (s : State) : Host.Outcome State Fault Refusal :=
  .next (conclude (.done .unit) (releaseLine l s))

/-- `setData(d)` (40_transport.md R67). -/
def execSetData (d : Bool) (s : State) : Host.Outcome State Fault Refusal :=
  .next (conclude (.done .unit) (setDataLine d s))

/-- `wait()` (40_transport.md R68). -/
def execWait (s : State) : Host.Outcome State Fault Refusal :=
  .next (conclude (.done .unit) (waitBit s))

/-- `sample(DIO)` (40_transport.md R69). -/
def execSample (s : State) : Host.Outcome State Fault Refusal :=
  let r := sampleDio s
  .next (conclude (.done (.level r.1)) r.2)

end Sys2Proof.Machine
end

