-- ==== Sys2Proof/Machine/Protocol.lean ====
section
/-!
DEFINITION. The host operations of spec/41_command_protocol.md R78-R87.
-/

namespace Sys2Proof.Machine

/-- `init` (41_command_protocol.md R87); a second `init` is refused before the lines are compared (60_exceptions.md
R104). -/
def execInit (clk dio : LineId) (level : Int) (bitDelayUs : Nat) (retain : Bool) (s : State) :
    Host.Outcome State Fault Refusal :=
  if s.st.initialised then .next (conclude (.refused .alreadyInitialised) s)
  else if clk = dio then .next (conclude (.refused .sameLine) s)
  else .next (conclude (.done .unit) (initialise clk dio level bitDelayUs retain s))

/-- `setSegments` (41_command_protocol.md R79): a segment value is sent and stored as `zext_8` of it. -/
def execSetSegments (segments : List Nat) (numDigits : Nat) (firstPosition : Int) (s : State) :
    Host.Outcome State Fault Refusal :=
  .next (setSegmentsOp (segments.map zext8) numDigits firstPosition s)

/-- `setBrightness` (41_command_protocol.md R84): it sends nothing (D4). -/
def execSetBrightness (level : Int) (s : State) : Host.Outcome State Fault Refusal :=
  .next (requireInit
    (fun s => conclude (.done .unit) { s with st := { s.st with ctrl := ctrlOfLevel level } }) s)

/-- `clear` (41_command_protocol.md R85): four blank bytes by the standard path. -/
def execClear (s : State) : Host.Outcome State Fault Refusal :=
  .next (setSegmentsOp (List.replicate 4 blankByte) 4 0 s)

/-- What `getSegments` ends with once `init` has run (41_command_protocol.md R86). -/
def snapshotOutcome (st : Block) : CallOutcome :=
  if st.retain then
    match st.snap with
    | some v => .done (.pattern v)
    | none => .refused .noSnapshot
  else .refused .noSnapshot

/-- `getSegments` (41_command_protocol.md R86). -/
def execGetSegments (s : State) : Host.Outcome State Fault Refusal :=
  .next (requireInit (fun s => conclude (snapshotOutcome s.st) s) s)

end Sys2Proof.Machine
end

