-- ==== Sys2Proof/Machine/Transport.lean ====
section
/-!
DEFINITION. The transport operations of spec/40_transport.md R70-R74.
-/

namespace Sys2Proof.Machine

/-- `start()` (40_transport.md R70). -/
def execStart (s : State) : Host.Outcome State Fault Refusal :=
  .next (conclude (.done .unit) (transportStart s))

/-- `stop()` (40_transport.md R71). -/
def execStop (s : State) : Host.Outcome State Fault Refusal :=
  .next (conclude (.done .unit) (transportStop s))

/-- `sendByte(b)` (40_transport.md R72): bits above 7 are not sent (D14). -/
def execSendByte (b : Nat) (s : State) : Host.Outcome State Fault Refusal :=
  let r := transportSendByte (zext8 b) s
  .next (conclude (.done (.ack r.1)) r.2)

end Sys2Proof.Machine
end

