-- ==== Sys2Proof/Machine/Wire.lean ====
section
/-!
DEFINITION. The wire bytes of spec/30_encoding.md R51-R54: each is put on the wire by `sendByte` as R50 encodes a
byte; the START and STOP around them are operations of their own (spec/40_transport.md R70, R71; log 5).
-/

namespace Sys2Proof.Machine

/-- DATA_WRITE, `0x40` (30_encoding.md R51). -/
def execDataWrite (s : State) : Host.Outcome State Fault Refusal :=
  let r := transportSendByte dataWriteByte s
  .next (conclude (.done (.ack r.1)) r.2)

/-- ADDR_SET, `0xC0 | aa` (30_encoding.md R52). -/
def execAddrSet (aa : BitVec 2) (s : State) : Host.Outcome State Fault Refusal :=
  let r := transportSendByte (addressByte aa) s
  .next (conclude (.done (.ack r.1)) r.2)

/-- DISPLAY_CTRL, `0b1000Elll` with E = 1 (30_encoding.md R53). -/
def execDisplayCtrl (lll : BitVec 3) (s : State) : Host.Outcome State Fault Refusal :=
  let r := transportSendByte (controlByte (enabledNibble lll)) s
  .next (conclude (.done (.ack r.1)) r.2)

/-- SEGMENT_DATA, any byte: "the block does not check it" (30_encoding.md R54). -/
def execSegmentData (b : Byte) (s : State) : Host.Outcome State Fault Refusal :=
  let r := transportSendByte b s
  .next (conclude (.done (.ack r.1)) r.2)

end Sys2Proof.Machine
end

