-- ==== Sys2Proof/Machine/Dispatch.lean ====
section
/-!
DEFINITION. The meaning of every instruction: one arm per constructor of `Instr`, each a direct call.
-/

namespace Sys2Proof.Machine

def exec (i : Instr) (s : State) : Host.Outcome State Fault Refusal :=
  match i with
  -- wire bytes
  | .dataWrite => Sys2Proof.Machine.execDataWrite s
  | .addrSet aa => Sys2Proof.Machine.execAddrSet aa s
  | .displayCtrl lll => Sys2Proof.Machine.execDisplayCtrl lll s
  | .segmentData b => Sys2Proof.Machine.execSegmentData b s
  -- line primitives
  | .drive l => Sys2Proof.Machine.execDrive l s
  | .release l => Sys2Proof.Machine.execRelease l s
  | .setData d => Sys2Proof.Machine.execSetData d s
  | .wait => Sys2Proof.Machine.execWait s
  | .sample => Sys2Proof.Machine.execSample s
  -- transport operations
  | .start => Sys2Proof.Machine.execStart s
  | .stop => Sys2Proof.Machine.execStop s
  | .sendByte b => Sys2Proof.Machine.execSendByte b s
  -- host calls
  | .init clk dio level delay retain => Sys2Proof.Machine.execInit clk dio level delay retain s
  | .setSegments segments n p => Sys2Proof.Machine.execSetSegments segments n p s
  | .setBrightness level => Sys2Proof.Machine.execSetBrightness level s
  | .clear => Sys2Proof.Machine.execClear s
  | .getSegments => Sys2Proof.Machine.execGetSegments s
  -- digit encoding
  | .digitToSegment value => Sys2Proof.Machine.execDigitToSegment value s
  | .displayInteger x => Sys2Proof.Machine.execDisplayInteger x s
  | .displayTime a b => Sys2Proof.Machine.execDisplayTime a b s

end Sys2Proof.Machine
end

