-- ==== Sys2Proof/Machine/Fetch.lean ====
section
/-!
DEFINITION. How the machine takes its next operation: the oldest request the host has placed (log 3).  The block has
no program counter and fetches no instructions (spec/10_state.md R18, spec/20_memory.md R45).
-/

namespace Sys2Proof.Machine

/-- The oldest request decoded, with the state that is left when it is taken; none when the host has placed none. -/
def takeRequest (s : State) : Option (Except DecodeError Instr × State) :=
  match s.pending with
  | [] => none
  | r :: rest => some (decode r, { s with pending := rest })

/-- `s` with the wire byte `w` placed as the oldest request, in the form `decodeTableWord` reads it (log 4). -/
def placeWireByte (nbits w : Nat) (s : State) : State :=
  if nbits = 8 ∧ w < 256 then { s with pending := requestOfByte (BitVec.ofNat 8 w) :: s.pending } else s

end Sys2Proof.Machine
end

