-- ==== Sys2Proof/Machine/Step.lean ====
section
/-!
DEFINITION. One step of the machine: one operation, from the host's view indivisible (spec/10_state.md R18,
spec/20_memory.md R38).
-/

namespace Sys2Proof.Machine

/-- One step.  "no operation has a step from a state with `st.halt ≠ none`" (60_exceptions.md R103); with no request
placed the block does nothing (log 3); otherwise the oldest request is taken and its operation runs to completion. -/
def step (s : State) : Host.Outcome State Fault Refusal :=
  match s.st.halt with
  | some (.fault r) => .fault (.halted r)
  | some (.refused r) => .refused (.halted r)
  | none =>
    match takeRequest s with
    | none => .next s
    | some (.error e, _) => .refused (.undecodable e)
    | some (.ok i, s') => exec i s'

/-- `s` with the wire byte `w` placed where `step` takes its next operation. -/
def State.withFetchWord (s : State) (nbits w : Nat) : State := placeWireByte nbits w s

end Sys2Proof.Machine
end

