-- ==== Sys2Proof/Safety.lean ====
section
/-!
DEFINITION. What counts as a safe run, in the terms the statements use: the invariants of the state, the receiver's
answers a state is about to get, what the state is after a byte, a frame and a completed `setSegments`, and the counts
and comparisons of traces (spec/40_transport.md R76; spec/41_command_protocol.md R79, R81).
-/

namespace Sys2Proof.Machine

/-! ## Safe states -/

/-- A state from which operations have steps (60_exceptions.md R103). -/
abbrev State.running (s : State) : Prop := s.st.halt = none

/-- The display-enabled bit of the control register (10_state.md R20, R21). -/
abbrev Block.enabled (b : Block) : Bool := b.ctrl.getLsbD 3

/-- The identifier of the physical line an event on `l` acts on (10_state.md R15). -/
def Block.lineOf (b : Block) : Line → LineId
  | .clk => b.clkLine
  | .dio => b.dioLine

/-- What every state of a run satisfies: the hard-wired bit of `ctrl` is 1 (10_state.md R21), an initialised block has
two distinct lines (00_scope.md R8), a snapshot is present exactly when it is retained (10_state.md R24), and the table
meets the law of 42_digit_encoding.md R88. -/
structure Inv (s : State) : Prop where
  enabled : s.st.enabled = true
  twoLines : s.st.initialised = true → s.st.clkLine ≠ s.st.dioLine
  snapshot : s.st.snap.isSome = s.st.retain
  table : lutLawful s.params.segLut = true

/-- What every state of a run of a host program satisfies, a program that calls public operations only (30_encoding.md
R61): the lines are released between operations (10_state.md R29), and the recorded line trace, split as 30_encoding.md
R57 says, reads as exactly the frame log (00_scope.md R13), with no frame left open.  Where the reader starts is log 14,
and that it takes a released line as high is log 11. -/
structure HostRun (s : State) : Prop where
  calls : s.pending.all Request.isHostCall = true
  clkIdle : s.st.clk = .rel
  dioIdle : s.st.dio = .rel
  reads : scanTrace s.trace = { Scan.idle with log := s.frames }

/-! ## The receiver's answers -/

/-- The level the ACK sample of a byte sent from this state reads: DIO is released there (40_transport.md R73). -/
def ackLevel (s : State) : Level := dioLevel s.params.pullupPresent .rel (nextDraw s)

/-- The levels the ACK samples of the next `n` bytes read. -/
def ackLevels : Nat → State → List Level
  | 0, _ => []
  | n + 1, s => ackLevel s :: ackLevels n (takeDraw s)

/-- The state with `n` draws used up. -/
def takeDraws : Nat → State → State
  | 0, s => s
  | n + 1, s => takeDraws n (takeDraw s)

/-- The bytes of a frame, each with the level its ACK sample reads. -/
def answered (bytes : List Byte) (s : State) : List (Byte × Level) := bytes.zip (ackLevels bytes.length s)

/-! ## States after -/

/-- The state after one byte sent by itself, by its encoding (30_encoding.md R50, 40_transport.md R72). -/
def afterByte (b : Byte) (s : State) : State :=
  { s with
    st := { s.st with clk := .low, dio := .rel }
    trace := s.trace ++ byteEvents b (ackLevel s)
    frames := s.frames ++ [.byte b (decide (ackLevel s = .low))]
    outcomes := s.outcomes ++ [.done (.ack (decide (ackLevel s = .low)))]
    rx := s.rx.tail
    draws := s.draws + 1 }

/-- The state after one frame, by its encoding (30_encoding.md R56): both lines released, its line events and its
transport events appended, one draw used for each byte. -/
def afterFrame (bytes : List Byte) (s : State) : State :=
  { s with
    st := { s.st with clk := .rel, dio := .rel }
    trace := s.trace ++ frameLineEvents (answered bytes s)
    frames := s.frames ++ frameLogEvents (answered bytes s)
    rx := s.rx.drop bytes.length
    draws := s.draws + bytes.length }

/-- The state after the frames F1, F2, F3 of an update (30_encoding.md R58). -/
def afterThreeFrames (payload : List Byte) (p : BitVec 2) (s : State) : State :=
  afterFrame [0x80#8 ||| s.st.ctrl.setWidth 8]
    (afterFrame ((0xC0#8 ||| p.setWidth 8) :: payload) (afterFrame [0x40#8] s))

/-- The snapshot after an update of `payload` at position `p` (41_command_protocol.md R82): at each position the byte
written there, and blank elsewhere. -/
def snapshotOf (payload : List Byte) (p : BitVec 2) : Pattern :=
  Vector.ofFn fun k => if p.toNat ≤ k.val then payload.getD (k.val - p.toNat) 0x00#8 else 0x00#8

/-- The state after a completed `setSegments` (41_command_protocol.md R79). -/
def afterUpdate (payload : List Byte) (p : BitVec 2) (s : State) : State :=
  let t := afterThreeFrames payload p s
  { t with
    st := { t.st with snap := if s.st.retain then some (snapshotOf payload p) else s.st.snap }
    outcomes := s.outcomes ++ [.done .unit] }

/-- The state after an operation that ended in `o` with no effect but `st.halt` (60_exceptions.md R103, R105). -/
def afterOutcome (o : CallOutcome) (h : Option Halt) (s : State) : State :=
  { s with st := { s.st with halt := h }, outcomes := s.outcomes ++ [o] }

/-! ## Runs of operations -/

/-- Operations run one after another, each from the state the one before it left; `none` where one gives no next
state. -/
def runOps : List Instr → State → Option State
  | [], s => some s
  | i :: rest, s =>
    match exec i s with
    | .next t => runOps rest t
    | .fault _ => none
    | .refused _ => none

/-- The internal operations whose line events an update consists of (41_command_protocol.md R79, pseudocode). -/
def updateOps (payload : List Byte) (p : BitVec 2) (lll : BitVec 3) : List Instr :=
  [.start, .dataWrite, .stop] ++ ([.start, .addrSet p] ++ payload.map .segmentData ++ [.stop])
    ++ [.start, .displayCtrl lll, .stop]

/-! ## Counts and comparisons of traces -/

/-- The number of `WAIT` events (40_transport.md R76). -/
def waitCount (t : List LineEvent) : Nat := t.countP (fun e => e = .wait)

/-- The number of `SAMPLE` events. -/
def sampleCount (t : List LineEvent) : Nat :=
  t.countP (fun e => match e with | .sample _ => true | .drive _ | .rel _ | .wait => false)

/-- A lower bound on the time a trace takes, in microseconds: each `WAIT` lasts at least the bit delay
(20_memory.md R42, 40_transport.md R68).  There is no upper bound (D2). -/
def minElapsedUs (b : Block) (t : List LineEvent) : Nat := waitCount t * b.bitDelay

/-- The drive state the events of a trace last gave a line, from the one it had (10_state.md R26). -/
def lastDrive (l : Line) (d : Drive) : List LineEvent → Drive
  | [] => d
  | .drive l' :: rest => lastDrive l (if l' = l then .low else d) rest
  | .rel l' :: rest => lastDrive l (if l' = l then .rel else d) rest
  | .wait :: rest => lastDrive l d rest
  | .sample _ :: rest => lastDrive l d rest

/-- A line event without what a SAMPLE read. -/
def hideSample : LineEvent → LineEvent
  | .sample _ => .sample .high
  | .drive l => .drive l
  | .rel l => .rel l
  | .wait => .wait

/-- A transport event without the ACK of its byte. -/
def hideAck : FrameEvent → FrameEvent
  | .byte b _ => .byte b false
  | .start => .start
  | .stop => .stop

/-- Every `REL CLK` of a trace is followed at once by a `WAIT`: the high time of CLK is at least one bit period
(70_reset_and_hazards.md R120, 60_exceptions.md R110). -/
def clockHighHeld : List LineEvent → Bool
  | [] => true
  | .rel .clk :: .wait :: rest => clockHighHeld rest
  | .rel .clk :: _ => false
  | _ :: rest => clockHighHeld rest

end Sys2Proof.Machine
end

