-- ==== Sys2Proof/Certificates/Slice0/Obligations.lean ====
section
/-!
DEFINITION. The statements about the machine, one definition each; OBLIGATIONS.json lists them.
-/

open Sys2Proof Sys2Proof.Machine

/-! ## Encoding -/

/-- Words written out from the encodings of spec/30_encoding.md R51-R54 and a line of R61 decode to the instructions
they stand for; `0x80` as a command byte is rejected by name (R59).  That a word with no place given is read as a
command where it is one is the model's choice (log 4). -/
def Obligations.SpecWordsDecode : Prop :=
  decodeTableWord 8 0b01000000 = some .dataWrite ∧
  decodeTableWord 8 0b11000000 = some (.addrSet 0) ∧
  decodeTableWord 8 0b11000011 = some (.addrSet 3) ∧
  decodeTableWord 8 0b10001000 = some (.displayCtrl 0) ∧
  decodeTableWord 8 0b10001111 = some (.displayCtrl 7) ∧
  decodeTableWord 8 0b00111111 = some (.segmentData 0x3F#8) ∧
  decode (.payload 0b01000000#8) = .ok (.segmentData 0x40#8) ∧
  decode (.command 0b10000000#8) = .error (.notACommandByte 0x80#8) ∧
  decode (.line "displayInteger(-42)".toList) = .ok (.displayInteger (-42))

/-- Decoding the encoding of a well-formed instruction gives it back, with every operand at every value: the wire
bytes of spec/30_encoding.md R51-R54 and the call syntax of R61 (its lexical details are the model's, log 10). -/
def Obligations.DecodeEncodeRoundTrip : Prop :=
  ∀ i : Instr, i.wf = true → decode (encode i) = .ok i

/-- A byte is accepted as the first of a frame exactly when it is `0x40`, `0xC0`..`0xC3` or `0x88`..`0x8F`
(spec/30_encoding.md R59, first sentence). -/
def Obligations.OnlyCommandBytesStartAFrame : Prop :=
  ∀ b : Byte, (∃ i, decode (.command b) = .ok i) ↔
    (b = 0x40#8 ∨ (0xC0#8 ≤ b ∧ b ≤ 0xC3#8) ∨ (0x88#8 ≤ b ∧ b ≤ 0x8F#8))

/-- The frames of spec/30_encoding.md R56 and their bytes determine each other: a well-formed frame's bytes decode to
it, and whatever decodes to a frame is that frame's bytes, and the frame is well formed. -/
def Obligations.FrameBytesRoundTrip : Prop :=
  (∀ f : WireFrame, f.wf = true → decodeFrame (encodeFrame f) = .ok f) ∧
  (∀ (bytes : List Byte) (f : WireFrame), decodeFrame bytes = .ok f → f.wf = true ∧ encodeFrame f = bytes)

/-- Reading the recorded line events of a frame, split into frames and bytes as spec/30_encoding.md R57 says, gives
exactly the frame's transport events, whatever its bytes and the answers to them, and leaves the reader idle.  That the
reader starts with both lines released and drops the bits a STOP cuts short (log 14), and takes a released line as high
(log 11), is the model's choice. -/
def Obligations.FrameTraceReadsBack : Prop :=
  ∀ bytes : List (Byte × Level),
    (frameLineEvents bytes).foldl scanEvent Scan.idle = { Scan.idle with log := frameLogEvents bytes }

/-! ## Steps -/

/-- When the oldest request decodes to an instruction, a step of a running machine is `exec` of it, at the state with
that request taken; a wire byte placed by `withFetchWord` is the next request.  The queue of requests is the model's
form of the host caller (log 3). -/
def Obligations.StepRunsTheDecodedRequest : Prop :=
  (∀ (s : State) (r : Request) (rest : List Request) (i : Instr),
    s.st.halt = none → s.pending = r :: rest → decode r = .ok i → step s = exec i { s with pending := rest }) ∧
  (∀ (s : State) (nbits w : Nat) (i : Instr),
    s.st.halt = none → decodeTableWord nbits w = some i → step (s.withFetchWord nbits w) = exec i s)

/-- A running machine with no request placed does nothing, and one whose oldest request stands for no operation
refuses it by the decoder's reason; both are the model's choice (log 3, log 10). -/
def Obligations.StepWithoutAnOperation : Prop :=
  (∀ s : State, s.st.halt = none → s.pending = [] → step s = .next s) ∧
  (∀ (s : State) (r : Request) (rest : List Request) (e : DecodeError),
    s.st.halt = none → s.pending = r :: rest → decode r = .error e → step s = .refused (.undecodable e))

/-- "no operation has a step from a state with `st.halt ≠ none`" (spec/60_exceptions.md R103). -/
def Obligations.HaltedStateHasNoStep : Prop :=
  (∀ (s : State) (r : FaultReason), s.st.halt = some (.fault r) → step s = .fault (.halted r)) ∧
  (∀ (s : State) (r : RefusalReason), s.st.halt = some (.refused r) → step s = .refused (.halted r))

/-! ## Line primitives -/

/-- `drive(ℓ)` and `release(ℓ)` complete in every state: they set the drive state of their line, append their event,
also when the line has that state already, and change nothing else (spec/40_transport.md R65, R66). -/
def Obligations.DriveAndReleaseComplete : Prop :=
  ∀ s : State,
    exec (.drive .clk) s = .next { s with
      st := { s.st with clk := .low }
      trace := s.trace ++ [.drive .clk]
      outcomes := s.outcomes ++ [.done .unit] } ∧
    exec (.drive .dio) s = .next { s with
      st := { s.st with dio := .low }
      trace := s.trace ++ [.drive .dio]
      outcomes := s.outcomes ++ [.done .unit] } ∧
    exec (.release .clk) s = .next { s with
      st := { s.st with clk := .rel }
      trace := s.trace ++ [.rel .clk]
      outcomes := s.outcomes ++ [.done .unit] } ∧
    exec (.release .dio) s = .next { s with
      st := { s.st with dio := .rel }
      trace := s.trace ++ [.rel .dio]
      outcomes := s.outcomes ++ [.done .unit] }

/-- `setData(d)` completes in every state: it drives DIO low for 0 and releases it for 1, with one event, and no
`WAIT`, whatever state DIO had (spec/40_transport.md R67). -/
def Obligations.SetDataFollowsTheBit : Prop :=
  ∀ s : State,
    exec (.setData false) s = .next { s with
      st := { s.st with dio := .low }
      trace := s.trace ++ [.drive .dio]
      outcomes := s.outcomes ++ [.done .unit] } ∧
    exec (.setData true) s = .next { s with
      st := { s.st with dio := .rel }
      trace := s.trace ++ [.rel .dio]
      outcomes := s.outcomes ++ [.done .unit] }

/-- `wait()` completes in every state: one `WAIT` event and nothing else (spec/40_transport.md R68); its length is not
state (log 12). -/
def Obligations.WaitCompletes : Prop :=
  ∀ s : State, exec .wait s = .next { s with
    trace := s.trace ++ [.wait]
    outcomes := s.outcomes ++ [.done .unit] }

/-- `sample(DIO)` completes in every state with the wired-AND level of DIO (spec/10_state.md R27): low when the block
drives it or the receiver's draw pulls it; else high by the pull-up; without one the level the draw says.  One draw is
used (log 2). -/
def Obligations.SampleReadsTheWiredLevel : Prop :=
  ∀ s : State,
    ∃ v : Level,
      exec .sample s = .next { s with
        trace := s.trace ++ [.sample v]
        outcomes := s.outcomes ++ [.done (.level v)]
        rx := s.rx.tail
        draws := s.draws + 1 } ∧
      (s.st.dio = .low → v = .low) ∧
      ((nextDraw s).pullDIO = true → v = .low) ∧
      (s.st.dio = .rel → (nextDraw s).pullDIO = false → s.params.pullupPresent = true → v = .high) ∧
      (s.st.dio = .rel → (nextDraw s).pullDIO = false → s.params.pullupPresent = false → v = (nextDraw s).floats)

/-- The level of each line is the wired-AND of its drivers (spec/10_state.md R27): a line driven low is low whatever
else; a released CLK is high by the pull-up, and a released DIO is high exactly when the receiver does not pull it (the
spec's decisions D15, D17). -/
def Obligations.LineLevelsAreWiredAnd : Prop :=
  (∀ (pullup : Bool) (floats : Level), clkLevel pullup .low floats = .low) ∧
  (∀ floats : Level, clkLevel true .rel floats = .high) ∧
  (∀ (pullup : Bool) (x : Draw), dioLevel pullup .low x = .low) ∧
  (∀ x : Draw, dioLevel true .rel x = .high ↔ x.pullDIO = false)

/-! ## Transport -/

/-- `start()` completes in every state with its four line events, one of them a `WAIT`, and leaves CLK released and
DIO driven low (spec/40_transport.md R70). -/
def Obligations.StartCompletes : Prop :=
  ∀ s : State, exec .start s = .next { s with
    st := { s.st with clk := .rel, dio := .low }
    trace := s.trace ++ [.rel .dio, .rel .clk, .wait, .drive .dio]
    frames := s.frames ++ [.start]
    outcomes := s.outcomes ++ [.done .unit] }

/-- `stop()` completes in every state with its seven line events, three of them `WAIT`s, and leaves both lines
released (spec/40_transport.md R71). -/
def Obligations.StopCompletes : Prop :=
  ∀ s : State, exec .stop s = .next { s with
    st := { s.st with clk := .rel, dio := .rel }
    trace := s.trace ++ [.drive .clk, .wait, .drive .dio, .wait, .rel .clk, .wait, .rel .dio]
    frames := s.frames ++ [.stop]
    outcomes := s.outcomes ++ [.done .unit] }

/-- `sendByte(b)` completes in every state: bit 0 of its low eight bits first, each bit the five line events of
spec/30_encoding.md R48, then the six of the ACK cell of R49 with one sample of DIO released; it reports and logs ACK
exactly when that sample is low, and leaves CLK low and DIO released (spec/40_transport.md R72, R73, R74).  The low eight
bits of a wider value are the spec's decision D14; the draw the sample uses up is the model's (log 2). -/
def Obligations.SendByteCompletes : Prop :=
  ∀ (b : Nat) (s : State) (v : Level), v = ackLevel s →
    exec (.sendByte b) s = .next { s with
      st := { s.st with clk := .low, dio := .rel }
      trace := s.trace ++
        (([0, 1, 2, 3, 4, 5, 6, 7] : List Nat).map (BitVec.ofNat 8 b).getLsbD).flatMap
          (fun d => [.drive .clk, if d then .rel .dio else .drive .dio, .wait, .rel .clk, .wait]) ++
        [.drive .clk, .rel .dio, .rel .clk, .wait, .sample v, .drive .clk]
      frames := s.frames ++ [.byte (BitVec.ofNat 8 b) (decide (v = .low))]
      outcomes := s.outcomes ++ [.done (.ack (decide (v = .low)))]
      rx := s.rx.tail
      draws := s.draws + 1 }

/-- The four wire bytes complete in every state: each is sent as `sendByte` sends its byte, `0x40`, `110000aa`,
`10001lll` or the segment byte itself (spec/30_encoding.md R51-R54).  That a row's execution is the sending of its byte,
with START and STOP left to operations of their own, is the model's reading (log 5). -/
def Obligations.WireBytesComplete : Prop :=
  ∀ s : State,
    exec .dataWrite s = .next (afterByte 0x40#8 s) ∧
    (∀ aa : BitVec 2, exec (.addrSet aa) s = .next (afterByte (0b110000#6 ++ aa) s)) ∧
    (∀ lll : BitVec 3, exec (.displayCtrl lll) s = .next (afterByte (0b10001#5 ++ lll) s)) ∧
    (∀ b : Byte, exec (.segmentData b) s = .next (afterByte b s))

/-- The ACK result is the receiver's pull alone when a pull-up is present, whatever the byte; with no receiver pulling
it is false (spec/40_transport.md R74, R72 corner case (c)). -/
def Obligations.AckIsTheReceiversPull : Prop :=
  ∀ (b : Nat) (s : State), s.params.pullupPresent = true →
    ∃ t, exec (.sendByte b) s = .next t ∧ t.outcomes = s.outcomes ++ [.done (.ack (nextDraw s).pullDIO)]

/-- Every operation only appends to the line trace, and after it each line's drive state is the one its new events last
gave it: `LOW` after `DRIVE ℓ`, `REL` after `REL ℓ`, unchanged where there is none (spec/10_state.md R26). -/
def Obligations.DriveStatesFollowTheTrace : Prop :=
  ∀ (i : Instr) (s t : State), exec i s = .next t →
    ∃ new, t.trace = s.trace ++ new ∧
      t.st.clk = lastDrive .clk s.st.clk new ∧ t.st.dio = lastDrive .dio s.st.dio new

/-- The `WAIT`s of a frame of `k` bytes: `4 + 17k`, and one SAMPLE for each byte (spec/40_transport.md R76, R73). -/
def Obligations.FrameWaitCount : Prop :=
  ∀ bytes : List (Byte × Level),
    waitCount (frameLineEvents bytes) = 4 + 17 * bytes.length ∧ sampleCount (frameLineEvents bytes) = bytes.length

/-- In a frame, CLK is never released without a bit period following at once, so it is high for at least one bit
period each time (spec/70_reset_and_hazards.md R120, spec/60_exceptions.md R110). -/
def Obligations.ClockHighLastsABitPeriod : Prop :=
  ∀ bytes : List (Byte × Level), clockHighHeld (frameLineEvents bytes) = true

/-- Between the `REL DIO` that ends one frame (STOP) and the `DRIVE DIO` that begins the next (START) there is exactly
one `WAIT` (spec/70_reset_and_hazards.md R122). -/
def Obligations.OneWaitBetweenFrames : Prop :=
  ∀ first second : List (Byte × Level),
    ∃ before after, frameLineEvents first ++ frameLineEvents second =
        before ++ [.rel .dio] ++ [.rel .dio, .rel .clk, .wait] ++ [.drive .dio] ++ after ∧
      before.length + 1 = (frameLineEvents first).length

/-- The internal operations write no field of `st` but the two drive states, and neither the parameters nor the host's
requests (spec/40_transport.md R65-R74, R77). -/
def Obligations.InternalOperationsTouchOnlyTheLines : Prop :=
  ∀ (i : Instr) (s : State), i.hostCallable = false →
    ∃ t, exec i s = .next t ∧
      t.st = { s.st with clk := t.st.clk, dio := t.st.dio } ∧ t.params = s.params ∧ t.pending = s.pending

/-! ## Reset and init -/

/-- Right after reset `st.initialised` is false and `st.halt` is none (spec/70_reset_and_hazards.md R114), and nothing
has been observed.  The values of the other fields are the model's (log 1) and this says nothing of them. -/
def Obligations.ResetIsBeforeInit : Prop :=
  State.reset.st.initialised = false ∧ State.reset.st.halt = none ∧ State.reset.trace = [] ∧ State.reset.frames = []

/-- A first `init` on two different lines completes in every state and leaves exactly what
spec/70_reset_and_hazards.md R115 lists, with the trace `REL CLK, REL DIO` and no frame (the spec's decisions D3, D5,
D8). -/
def Obligations.InitCompletes : Prop :=
  ∀ (clk dio : LineId) (level : Int) (delay : Nat) (retain : Bool) (s : State),
    s.st.initialised = false → clk ≠ dio →
    exec (.init clk dio level delay retain) s = .next { s with
      st := {
        clkLine := clk
        dioLine := dio
        bitDelay := delay
        ctrl := 0x8#4 ||| BitVec.ofNat 4 (level % 8).toNat
        retain := retain
        snap := if retain then some #v[0#8, 0#8, 0#8, 0#8] else none
        clk := .rel
        dio := .rel
        initialised := true
        halt := s.st.halt }
      trace := s.trace ++ [.rel .clk, .rel .dio]
      outcomes := s.outcomes ++ [.done .unit] }

/-- A second `init` is refused as AlreadyInitialised, also when its lines are the same; a first `init` on one line
twice is refused as SameLine; neither has an effect but `st.halt` (spec/41_command_protocol.md R87,
spec/60_exceptions.md R104; the spec's decisions D24, D25, D28). -/
def Obligations.InitRefusals : Prop :=
  ∀ (clk dio : LineId) (level : Int) (delay : Nat) (retain : Bool) (s : State),
    (s.st.initialised = true →
      exec (.init clk dio level delay retain) s =
        .next (afterOutcome (.refused .alreadyInitialised) (some (.refused .alreadyInitialised)) s)) ∧
    (s.st.initialised = false → clk = dio →
      exec (.init clk dio level delay retain) s =
        .next (afterOutcome (.refused .sameLine) (some (.refused .sameLine)) s))

/-- Before `init` every host operation but `init` and `digitToSegment` is refused as NotInitialised, also where another
outcome would apply, with no line event and no state change but `st.halt` (spec/41_command_protocol.md R78,
spec/60_exceptions.md R104; the spec's decision D24). -/
def Obligations.HostOperationsNeedInit : Prop :=
  ∀ (i : Instr) (s : State), s.st.initialised = false → i.hostCallable = true →
    (∀ clk dio level delay retain, i ≠ .init clk dio level delay retain) → (∀ v, i ≠ .digitToSegment v) →
    exec i s = .next (afterOutcome (.refused .notInitialised) (some (.refused .notInitialised)) s)

/-! ## The command protocol -/

/-- `setSegments` completes for every byte count that fits, and its next state is: the frames F1, F2, F3 by their
encoding, the snapshot where it is retained, the outcome, one draw for each byte sent, and nothing else
(spec/41_command_protocol.md R79, R81, R82; the spec's decisions D5, D7, D14, D29). -/
def Obligations.SetSegmentsCompletes : Prop :=
  ∀ (segments : List Nat) (n : Nat) (p : Int) (s : State),
    s.st.initialised = true → n ≤ segments.length → (p % 4).toNat + n ≤ 4 →
    exec (.setSegments segments n p) s =
      .next (afterUpdate ((segments.take n).map (BitVec.ofNat 8)) (BitVec.ofNat 2 (p % 4).toNat) s)

/-- What a completed `setSegments` adds to the frame log is three whole frames of spec/30_encoding.md R56, each with its
own START and STOP, and nothing before, between or after them (R58): the bytes `0x40`; then `0xC0|aa` and the payload in
order; then `0x80|st.ctrl`.  The reduction of `firstPosition` and of wide segment values and the length of the payload
are the spec's decisions D5, D14, D29. -/
def Obligations.SetSegmentsSendsThreeFrames : Prop :=
  ∀ (segments : List Nat) (n : Nat) (p : Int) (s : State),
    s.st.initialised = true → n ≤ segments.length → (p % 4).toNat + n ≤ 4 →
    ∃ (t : State) (sent : List (List (Byte × Level))), exec (.setSegments segments n p) s = .next t ∧
      t.frames = s.frames ++ sent.flatMap frameLogEvents ∧
      sent.map (List.map Prod.fst) =
        [[0x40#8],
         (0xC0#8 ||| BitVec.ofNat 8 (p % 4).toNat) :: (segments.take n).map (BitVec.ofNat 8),
         [0x80#8 ||| s.st.ctrl.setWidth 8]]

/-- The frames of a completed `setSegments` are well-formed frames of spec/30_encoding.md R56: they decode as F1, F2 at
position `firstPosition mod 4` with the payload, and F3 with the level of `st.ctrl`, in every state whose hard-wired
bit is set (an invariant: `EveryStepKeepsTheInvariant`). -/
def Obligations.EmittedFramesDecode : Prop :=
  ∀ (segments : List Nat) (n : Nat) (p : Int) (s : State),
    s.st.initialised = true → n ≤ segments.length → (p % 4).toNat + n ≤ 4 → s.st.ctrl.getLsbD 3 = true →
    ∃ t new, exec (.setSegments segments n p) s = .next t ∧ t.frames = s.frames ++ new ∧
      (framesOfLog new []).map decodeFrame =
        [.ok .dataWrite,
         .ok (.address (BitVec.ofNat 2 (p % 4).toNat) ((segments.take n).map (BitVec.ofNat 8))),
         .ok (.control (s.st.ctrl.setWidth 3))]

/-- The counts of a completed `setSegments` of `n` payload bytes: `171 + 46n` line events, `63 + 17n` `WAIT`s and
`3 + n` `SAMPLE`s, so at least `63 + 17n` bit delays (spec/41_command_protocol.md R79 counts,
spec/70_reset_and_hazards.md R128). -/
def Obligations.SetSegmentsCounts : Prop :=
  ∀ (segments : List Nat) (n : Nat) (p : Int) (s : State),
    s.st.initialised = true → n ≤ segments.length → (p % 4).toNat + n ≤ 4 →
    ∃ t new, exec (.setSegments segments n p) s = .next t ∧ t.trace = s.trace ++ new ∧
      new.length = 171 + 46 * n ∧ waitCount new = 63 + 17 * n ∧ sampleCount new = 3 + n ∧
      minElapsedUs s.st new = (63 + 17 * n) * s.st.bitDelay

/-- Where `numDigits` exceeds the segments or the remaining positions, an initialised `setSegments` ends in
`Fault(BadDigitCount)`, before any line event and with no state change but `st.halt` (spec/41_command_protocol.md R80,
the spec's decision D6). -/
def Obligations.SetSegmentsFaultsOnBadCount : Prop :=
  ∀ (segments : List Nat) (n : Nat) (p : Int) (s : State),
    s.st.initialised = true → (segments.length < n ∨ 4 < (p % 4).toNat + n) →
    exec (.setSegments segments n p) s =
      .next (afterOutcome (.fault .badDigitCount) (some (.fault .badDigitCount)) s)

/-- After a completed `setSegments` with the snapshot retained, each position holds the byte written to it and every
other position is blank, whatever was there; `getSegments` then returns exactly that (spec/41_command_protocol.md R82,
R86). -/
def Obligations.SnapshotHoldsTheLastUpdate : Prop :=
  ∀ (segments : List Nat) (n : Nat) (p : Int) (s : State),
    s.st.initialised = true → s.st.retain = true → n ≤ segments.length → (p % 4).toNat + n ≤ 4 →
    ∃ (t u : State) (v : Pattern), exec (.setSegments segments n p) s = .next t ∧ t.st.snap = some v ∧
      (∀ (k : Nat) (hk : k < 4),
        v[k] = if (p % 4).toNat ≤ k ∧ k < (p % 4).toNat + n
          then BitVec.ofNat 8 (segments.getD (k - (p % 4).toNat) 0) else 0x00#8) ∧
      exec .getSegments t = .next u ∧ u.outcomes = t.outcomes ++ [.done (.pattern v)]

/-- A completed `setSegments` is exactly its internal operations run one after another: START, the byte, STOP for each
of the three frames (spec/41_command_protocol.md R79, pseudocode), but for the snapshot and for the outcomes, where it
returns `()` and no ACK (R81).  In every state whose hard-wired control bit is set (an invariant).  That a wire-byte
row is the sending of its byte is the model's reading (log 5). -/
def Obligations.UpdateIsItsInternalOperations : Prop :=
  ∀ (segments : List Nat) (n : Nat) (p : Int) (s : State),
    s.st.initialised = true → n ≤ segments.length → (p % 4).toNat + n ≤ 4 → s.st.ctrl.getLsbD 3 = true →
    ∃ t u,
      runOps (updateOps ((segments.take n).map (BitVec.ofNat 8)) (BitVec.ofNat 2 (p % 4).toNat)
        (s.st.ctrl.setWidth 3)) s = some u ∧
      exec (.setSegments segments n p) s = .next t ∧
      t = { u with st := { u.st with snap := t.st.snap }, outcomes := s.outcomes ++ [.done .unit] }

/-- What the receiver answers changes nothing but the answers: two runs of a host operation from states that differ
only in the coming draws end with the same `st`, the same outcomes, the same bytes and the same line events, but for
what each SAMPLE read (spec/41_command_protocol.md R81, R83; the spec's decision D7). -/
def Obligations.AckAnswersChangeNothingElse : Prop :=
  ∀ (i : Instr) (s t t' : State) (rx : List Draw) (draws : Nat), i.hostCallable = true →
    exec i s = .next t → exec i { s with rx := rx, draws := draws } = .next t' →
    t'.st = t.st ∧ t'.outcomes = t.outcomes ∧ t'.frames.map hideAck = t.frames.map hideAck ∧
      t'.trace.map hideSample = t.trace.map hideSample

/-- `setBrightness(level)` completes in every initialised state: it writes `st.ctrl` with `0x8 | (level mod 8)`, sends
nothing, and changes nothing else (spec/41_command_protocol.md R84; the spec's decisions D4, D5). -/
def Obligations.SetBrightnessCompletes : Prop :=
  ∀ (level : Int) (s : State), s.st.initialised = true →
    exec (.setBrightness level) s = .next { s with
      st := { s.st with ctrl := 0x8#4 ||| BitVec.ofNat 4 (level % 8).toNat }
      outcomes := s.outcomes ++ [.done .unit] }

/-- "`st.ctrl[3]` is always 1: no operation of the block writes it to 0"; a write of any level leaves `st.ctrl` in
`0x8..0xF`, and "`setBrightness(200)` behaves identically to `setBrightness(200 & 0x07)`" (spec/10_state.md R21). -/
def Obligations.DisplayStaysEnabled : Prop :=
  (∀ (i : Instr) (s t : State), exec i s = .next t → s.st.ctrl.getLsbD 3 = true → t.st.ctrl.getLsbD 3 = true) ∧
  (∀ (level : Int) (s : State), s.st.initialised = true →
    ∃ t, exec (.setBrightness level) s = .next t ∧ 0x8#4 ≤ t.st.ctrl) ∧
  (∀ (clk dio : LineId) (level : Int) (delay : Nat) (retain : Bool) (s : State),
    s.st.initialised = false → clk ≠ dio →
    ∃ t, exec (.init clk dio level delay retain) s = .next t ∧ 0x8#4 ≤ t.st.ctrl) ∧
  (∀ s : State, exec (.setBrightness 200) s = exec (.setBrightness ((200 &&& 0x07 : Nat) : Int)) s)

/-- A `setBrightness` reaches the wire in the control frame of the next `setSegments`, whose last byte is
`0x88 | (level mod 8)`, and not before: it emits no event (spec/70_reset_and_hazards.md R124; the spec's decision
D4). -/
def Obligations.BrightnessReachesTheNextUpdate : Prop :=
  ∀ (level : Int) (segments : List Nat) (n : Nat) (p : Int) (s : State),
    s.st.initialised = true → n ≤ segments.length → (p % 4).toNat + n ≤ 4 →
    ∃ t u new, exec (.setBrightness level) s = .next t ∧ t.trace = s.trace ∧ t.frames = s.frames ∧
      exec (.setSegments segments n p) t = .next u ∧ u.frames = t.frames ++ new ∧
      (framesOfLog new []).getLast? = some [0x88#8 ||| BitVec.ofNat 8 (level % 8).toNat]

/-- `clear()` is `setSegments([0x00, 0x00, 0x00, 0x00], 4, 0)` in every state; initialised, it completes with the full
command sequence, the current brightness in F3, and a blank snapshot where it is retained (spec/41_command_protocol.md
R85). -/
def Obligations.ClearIsABlankUpdate : Prop :=
  (∀ s : State, exec .clear s = exec (.setSegments [0x00, 0x00, 0x00, 0x00] 4 0) s) ∧
  (∀ s : State, s.st.initialised = false →
    exec .clear s = .next (afterOutcome (.refused .notInitialised) (some (.refused .notInitialised)) s)) ∧
  (∀ s : State, s.st.initialised = true →
    exec .clear s = .next (afterUpdate [0x00#8, 0x00#8, 0x00#8, 0x00#8] 0 s)) ∧
  (∀ s : State, s.st.initialised = true →
    ∃ t new, exec .clear s = .next t ∧ t.frames = s.frames ++ new ∧
      framesOfLog new [] =
        [[0x40#8], [0xC0#8, 0x00#8, 0x00#8, 0x00#8, 0x00#8], [0x80#8 ||| s.st.ctrl.setWidth 8]] ∧
      (s.st.retain = true → t.st.snap = some #v[0x00#8, 0x00#8, 0x00#8, 0x00#8]))

/-- `getSegments()` completes with the snapshot in every initialised state that retains one, with no line event and no
state written; without a retained snapshot it is refused as NoSnapshot (spec/41_command_protocol.md R86; the spec's
decision D8). -/
def Obligations.GetSegmentsReturnsTheSnapshot : Prop :=
  (∀ (s : State) (v : Pattern), s.st.initialised = true → s.st.retain = true → s.st.snap = some v →
    exec .getSegments s = .next { s with outcomes := s.outcomes ++ [.done (.pattern v)] }) ∧
  (∀ s : State, s.st.initialised = true → s.st.retain = false →
    exec .getSegments s = .next (afterOutcome (.refused .noSnapshot) (some (.refused .noSnapshot)) s))

/-! ## Digit encoding -/

/-- `digitToSegment(value)` completes in every state, before `init` too, with the table's entry at `value mod 16`, no
line event and no state written (spec/42_digit_encoding.md R90, spec/41_command_protocol.md R78; the spec's decisions
D5, D24). -/
def Obligations.DigitToSegmentReadsTheTable : Prop :=
  ∀ (value : Int) (k : Fin 16) (s : State), value % 16 = (k.val : Int) →
    exec (.digitToSegment value) s =
      .next { s with outcomes := s.outcomes ++ [.done (.byte (s.params.segLut.get k))] }

/-- `displayInteger` accepts `x` exactly when `-999 ≤ x ≤ 9999`; for any other `x` it ends `Ignored`, with no line
event, no frame and no state change (spec/42_digit_encoding.md R91). -/
def Obligations.DisplayIntegerAcceptsItsDomain : Prop :=
  ∀ (x : Int) (s : State), s.st.initialised = true →
    ((-999 ≤ x ∧ x ≤ 9999) →
      ∃ t new, exec (.displayInteger x) s = .next t ∧ t.outcomes = s.outcomes ++ [.done .unit] ∧
        t.frames = s.frames ++ new ∧ (framesOfLog new []).length = 3) ∧
    (¬ (-999 ≤ x ∧ x ≤ 9999) →
      exec (.displayInteger x) s = .next { s with outcomes := s.outcomes ++ [.ignored] })

/-- The pattern of an accepted integer, by its magnitude and sign: the digits of the table with leading zeros blank and
the units digit always there, and for a negative one the minus sign right before the first digit
(spec/42_digit_encoding.md R92); `displayInteger` then completes and updates all four positions with it (R94,
spec/30_encoding.md R62; count 4 and offset 0 are the spec's decision D11). -/
def Obligations.DisplayIntegerCompletes : Prop :=
  ∀ (x : Int) (s : State), s.st.initialised = true → -999 ≤ x → x ≤ 9999 →
    let m := x.natAbs
    let g : Nat → Byte := fun k => s.params.segLut.get (Fin.ofNat 16 k)
    exec (.displayInteger x) s = .next (afterUpdate
      (if 1000 ≤ x then [g (m / 1000), g (m / 100 % 10), g (m / 10 % 10), g (m % 10)]
       else if 100 ≤ x then [0x00#8, g (m / 100), g (m / 10 % 10), g (m % 10)]
       else if 10 ≤ x then [0x00#8, 0x00#8, g (m / 10), g (m % 10)]
       else if 0 ≤ x then [0x00#8, 0x00#8, 0x00#8, g m]
       else if -9 ≤ x then [0x00#8, 0x00#8, 0x40#8, g m]
       else if -99 ≤ x then [0x00#8, 0x40#8, g (m / 10), g (m % 10)]
       else [0x40#8, g (m / 100), g (m / 10 % 10), g (m % 10)]) 0 s)

/-- The four bytes of an accepted integer are blanks, then the minus sign if it is negative, then the table's bytes of
the decimal digits of its magnitude without leading zeros, left to right (spec/42_digit_encoding.md R95). -/
def Obligations.IntegerPatternSpellsTheDigits : Prop :=
  ∀ (lut : Vector Byte 16) (x : Int), -999 ≤ x → x ≤ 9999 →
    ∃ blanks : Nat,
      intPattern lut x =
        List.replicate blanks 0x00#8 ++ (if x < 0 then [0x40#8] else []) ++
          (if x = 0 then [0] else (Nat.digits 10 x.natAbs).reverse).map (fun k => lut.get (Fin.ofNat 16 k)) ∧
      (intPattern lut x).length = 4

/-- `displayTime(a, b)` completes for fields in 0..99 with two zero-padded two-digit groups, the colon OR-ed into the
second byte, and updates all four positions with them; with any other field an initialised block ignores it, and before
`init` it is refused (spec/42_digit_encoding.md R96, R97, R98).  The spec's decisions: count 4 and offset 0 (D11), a
negative field ignored like one above 99 (D12, unsafe: log 17), and the refusal (D24). -/
def Obligations.DisplayTimeCompletes : Prop :=
  ∀ (a b : Int) (s : State),
    let g : Int → Byte := fun k => s.params.segLut.get (Fin.ofNat 16 k.toNat)
    (s.st.initialised = true → 0 ≤ a → a ≤ 99 → 0 ≤ b → b ≤ 99 →
      exec (.displayTime a b) s =
        .next (afterUpdate [g (a / 10), g (a % 10) ||| 0x80#8, g (b / 10), g (b % 10)] 0 s)) ∧
    (s.st.initialised = true → (a < 0 ∨ 99 < a ∨ b < 0 ∨ 99 < b) →
      exec (.displayTime a b) s = .next { s with outcomes := s.outcomes ++ [.ignored] }) ∧
    (s.st.initialised = false →
      exec (.displayTime a b) s = .next (afterOutcome (.refused .notInitialised) (some (.refused .notInitialised)) s))

/-! ## Outcomes -/

/-- Every operation, in every state, gives a next state and ends with exactly one outcome; it sets `st.halt` exactly as
that outcome says (spec/60_exceptions.md R101, R103, the spec's decision D24; R129: no operation hangs). -/
def Obligations.EveryOperationEndsWithOneOutcome : Prop :=
  ∀ (i : Instr) (s : State),
    ∃ t o, exec i s = .next t ∧ t.outcomes = s.outcomes ++ [o] ∧
      t.st.halt = match o with
        | .done _ => s.st.halt
        | .ignored => s.st.halt
        | .fault r => some (.fault r)
        | .refused r => some (.refused r)

/-- "All checks precede the first line event of the call, so a call that does not end `Done` emits no line event"
(spec/60_exceptions.md R104), and it writes nothing but `st.halt` (R105). -/
def Obligations.OutcomesOtherThanDoneArePrecise : Prop :=
  ∀ (i : Instr) (s t : State) (o : CallOutcome), exec i s = .next t → t.outcomes = s.outcomes ++ [o] →
    (∀ r, o ≠ .done r) →
    t = afterOutcome o (match o with
      | .done _ => s.st.halt
      | .ignored => s.st.halt
      | .fault r => some (.fault r)
      | .refused r => some (.refused r)) s

/-- "After `Ignored` the state is exactly the state before the call and the run continues" (spec/60_exceptions.md
R102), but for the outcome itself in the log of outcomes, which is the model's (log 7); a running block stays running. -/
def Obligations.IgnoredChangesNothing : Prop :=
  ∀ (i : Instr) (s t : State), exec i s = .next t → t.outcomes = s.outcomes ++ [.ignored] →
    t = { s with outcomes := s.outcomes ++ [.ignored] } ∧ (s.st.halt = none → t.st.halt = none)

/-! ## Whole-machine rules -/

/-- Who may write each field of `st` (spec/10_state.md R15, column "writable by"): the handle's lines, delay, retain
flag and mark by `init` only, the control register by `init` and `setBrightness` only, the snapshot by `init` and the
operations that are or expand to `setSegments` only; no operation writes the host's requests. -/
def Obligations.WritersOfEachField : Prop :=
  ∀ (i : Instr) (s t : State), exec i s = .next t →
    ((∀ clk dio level delay retain, i ≠ .init clk dio level delay retain) →
      t.st.clkLine = s.st.clkLine ∧ t.st.dioLine = s.st.dioLine ∧ t.st.bitDelay = s.st.bitDelay ∧
        t.st.retain = s.st.retain ∧ t.st.initialised = s.st.initialised ∧
      ((∀ level, i ≠ .setBrightness level) → t.st.ctrl = s.st.ctrl) ∧
      ((∀ segments n p, i ≠ .setSegments segments n p) → i ≠ .clear → (∀ x, i ≠ .displayInteger x) →
        (∀ a b, i ≠ .displayTime a b) → t.st.snap = s.st.snap)) ∧
    t.pending = s.pending

/-- "The model has no operation that destroys or re-creates it after `init`" (spec/10_state.md R16): every step from an
initialised state keeps the line assignments, the bit delay, the retain flag and the mark. -/
def Obligations.HandleIsKeptAfterInit : Prop :=
  ∀ s t : State, s.st.initialised = true → step s = .next t →
    t.st.initialised = true ∧ t.st.clkLine = s.st.clkLine ∧ t.st.dioLine = s.st.dioLine ∧
      t.st.bitDelay = s.st.bitDelay ∧ t.st.retain = s.st.retain

/-- "No operation writes it": every step keeps `SEG_LUT`, and the other parameter (spec/10_state.md R25). -/
def Obligations.TableIsNeverWritten : Prop :=
  ∀ s t : State, step s = .next t → t.params.segLut = s.params.segLut ∧ t.params.pullupPresent = s.params.pullupPresent

/-- Every step keeps the invariant: the hard-wired bit of `ctrl` (spec/10_state.md R21), two distinct lines once
initialised (spec/00_scope.md R8), a snapshot exactly when retained (spec/10_state.md R24), and the law of the table
(spec/42_digit_encoding.md R88). -/
def Obligations.EveryStepKeepsTheInvariant : Prop :=
  ∀ s t : State, Inv s → step s = .next t → Inv t

/-- The state right after reset meets the invariant; for the control register and the snapshot this rests on the
model's reset values (log 1), for the table on the default table (log 9). -/
def Obligations.ResetMeetsTheInvariant : Prop := Inv State.reset

/-- Every step of a host program keeps this: the lines are released between operations (spec/10_state.md R29), and the
recorded line trace, split as spec/30_encoding.md R57 says, reads as exactly the frame log, with no spurious START or
STOP and no frame left open (spec/00_scope.md R13, spec/40_transport.md R75).  That the reader starts with both lines
released and drops the bits a STOP cuts short (log 14), and takes a released line as high whatever the receiver does
(log 11), is the model's choice: on a wire whose DIO the receiver pulls, START and STOP edges may be missing. -/
def Obligations.HostProgramTraceReadsAsItsFrames : Prop :=
  ∀ s t : State, HostRun s → step s = .next t → HostRun t

/-- The state right after reset, with any requests for public operations placed, meets that invariant; for the lines
this rests on the model's reset values (log 1), for the trace on the reader's start (log 14). -/
def Obligations.HostProgramStartsIdle : Prop :=
  ∀ program : List Request, program.all Request.isHostCall = true → HostRun { State.reset with pending := program }
end

