-- ==== Sys2Proof/Laws/State.lean ====
section
/-!
SUPPORT. One lemma per field per update of the state, each true by `rfl` and a simp lemma, so that no later proof
unfolds a record update.
-/

namespace Sys2Proof.Machine


/-! ### `record` -/

@[simp] theorem record_st (e : LineEvent) (s : State) : (record e s).st = s.st := rfl
@[simp] theorem record_params (e : LineEvent) (s : State) : (record e s).params = s.params := rfl
@[simp] theorem record_trace (e : LineEvent) (s : State) : (record e s).trace = s.trace ++ [e] := rfl
@[simp] theorem record_frames (e : LineEvent) (s : State) : (record e s).frames = s.frames := rfl
@[simp] theorem record_outcomes (e : LineEvent) (s : State) : (record e s).outcomes = s.outcomes := rfl
@[simp] theorem record_pending (e : LineEvent) (s : State) : (record e s).pending = s.pending := rfl
@[simp] theorem record_rx (e : LineEvent) (s : State) : (record e s).rx = s.rx := rfl
@[simp] theorem record_draws (e : LineEvent) (s : State) : (record e s).draws = s.draws := rfl

/-! ### `emit` -/

@[simp] theorem emit_st (f : FrameEvent) (s : State) : (emit f s).st = s.st := rfl
@[simp] theorem emit_params (f : FrameEvent) (s : State) : (emit f s).params = s.params := rfl
@[simp] theorem emit_trace (f : FrameEvent) (s : State) : (emit f s).trace = s.trace := rfl
@[simp] theorem emit_frames (f : FrameEvent) (s : State) : (emit f s).frames = s.frames ++ [f] := rfl
@[simp] theorem emit_outcomes (f : FrameEvent) (s : State) : (emit f s).outcomes = s.outcomes := rfl
@[simp] theorem emit_pending (f : FrameEvent) (s : State) : (emit f s).pending = s.pending := rfl
@[simp] theorem emit_rx (f : FrameEvent) (s : State) : (emit f s).rx = s.rx := rfl
@[simp] theorem emit_draws (f : FrameEvent) (s : State) : (emit f s).draws = s.draws := rfl

/-! ### `takeDraw` -/

@[simp] theorem takeDraw_st (s : State) : (takeDraw s).st = s.st := rfl
@[simp] theorem takeDraw_params (s : State) : (takeDraw s).params = s.params := rfl
@[simp] theorem takeDraw_trace (s : State) : (takeDraw s).trace = s.trace := rfl
@[simp] theorem takeDraw_frames (s : State) : (takeDraw s).frames = s.frames := rfl
@[simp] theorem takeDraw_outcomes (s : State) : (takeDraw s).outcomes = s.outcomes := rfl
@[simp] theorem takeDraw_pending (s : State) : (takeDraw s).pending = s.pending := rfl
@[simp] theorem takeDraw_rx (s : State) : (takeDraw s).rx = s.rx.tail := rfl
@[simp] theorem takeDraw_draws (s : State) : (takeDraw s).draws = s.draws + 1 := rfl

/-! ### `conclude` -/

@[simp] theorem conclude_clkLine (o : CallOutcome) (s : State) : (conclude o s).st.clkLine = s.st.clkLine := rfl
@[simp] theorem conclude_dioLine (o : CallOutcome) (s : State) : (conclude o s).st.dioLine = s.st.dioLine := rfl
@[simp] theorem conclude_bitDelay (o : CallOutcome) (s : State) : (conclude o s).st.bitDelay = s.st.bitDelay := rfl
@[simp] theorem conclude_ctrl (o : CallOutcome) (s : State) : (conclude o s).st.ctrl = s.st.ctrl := rfl
@[simp] theorem conclude_retain (o : CallOutcome) (s : State) : (conclude o s).st.retain = s.st.retain := rfl
@[simp] theorem conclude_snap (o : CallOutcome) (s : State) : (conclude o s).st.snap = s.st.snap := rfl
@[simp] theorem conclude_clk (o : CallOutcome) (s : State) : (conclude o s).st.clk = s.st.clk := rfl
@[simp] theorem conclude_dio (o : CallOutcome) (s : State) : (conclude o s).st.dio = s.st.dio := rfl
@[simp] theorem conclude_initialised (o : CallOutcome) (s : State) : (conclude o s).st.initialised = s.st.initialised := rfl
@[simp] theorem conclude_halt (o : CallOutcome) (s : State) : (conclude o s).st.halt = haltAfter s.st.halt o := rfl
@[simp] theorem conclude_params (o : CallOutcome) (s : State) : (conclude o s).params = s.params := rfl
@[simp] theorem conclude_trace (o : CallOutcome) (s : State) : (conclude o s).trace = s.trace := rfl
@[simp] theorem conclude_frames (o : CallOutcome) (s : State) : (conclude o s).frames = s.frames := rfl
@[simp] theorem conclude_outcomes (o : CallOutcome) (s : State) : (conclude o s).outcomes = s.outcomes ++ [o] := rfl
@[simp] theorem conclude_pending (o : CallOutcome) (s : State) : (conclude o s).pending = s.pending := rfl
@[simp] theorem conclude_rx (o : CallOutcome) (s : State) : (conclude o s).rx = s.rx := rfl
@[simp] theorem conclude_draws (o : CallOutcome) (s : State) : (conclude o s).draws = s.draws := rfl

/-! ### `setDrive` -/

@[simp] theorem setDrive_clk_clkLine (d : Drive) (s : State) : (setDrive .clk d s).st.clkLine = s.st.clkLine := rfl
@[simp] theorem setDrive_clk_dioLine (d : Drive) (s : State) : (setDrive .clk d s).st.dioLine = s.st.dioLine := rfl
@[simp] theorem setDrive_clk_bitDelay (d : Drive) (s : State) : (setDrive .clk d s).st.bitDelay = s.st.bitDelay := rfl
@[simp] theorem setDrive_clk_ctrl (d : Drive) (s : State) : (setDrive .clk d s).st.ctrl = s.st.ctrl := rfl
@[simp] theorem setDrive_clk_retain (d : Drive) (s : State) : (setDrive .clk d s).st.retain = s.st.retain := rfl
@[simp] theorem setDrive_clk_snap (d : Drive) (s : State) : (setDrive .clk d s).st.snap = s.st.snap := rfl
@[simp] theorem setDrive_clk_clk (d : Drive) (s : State) : (setDrive .clk d s).st.clk = d := rfl
@[simp] theorem setDrive_clk_dio (d : Drive) (s : State) : (setDrive .clk d s).st.dio = s.st.dio := rfl
@[simp] theorem setDrive_clk_initialised (d : Drive) (s : State) : (setDrive .clk d s).st.initialised = s.st.initialised := rfl
@[simp] theorem setDrive_clk_halt (d : Drive) (s : State) : (setDrive .clk d s).st.halt = s.st.halt := rfl
@[simp] theorem setDrive_dio_clkLine (d : Drive) (s : State) : (setDrive .dio d s).st.clkLine = s.st.clkLine := rfl
@[simp] theorem setDrive_dio_dioLine (d : Drive) (s : State) : (setDrive .dio d s).st.dioLine = s.st.dioLine := rfl
@[simp] theorem setDrive_dio_bitDelay (d : Drive) (s : State) : (setDrive .dio d s).st.bitDelay = s.st.bitDelay := rfl
@[simp] theorem setDrive_dio_ctrl (d : Drive) (s : State) : (setDrive .dio d s).st.ctrl = s.st.ctrl := rfl
@[simp] theorem setDrive_dio_retain (d : Drive) (s : State) : (setDrive .dio d s).st.retain = s.st.retain := rfl
@[simp] theorem setDrive_dio_snap (d : Drive) (s : State) : (setDrive .dio d s).st.snap = s.st.snap := rfl
@[simp] theorem setDrive_dio_clk (d : Drive) (s : State) : (setDrive .dio d s).st.clk = s.st.clk := rfl
@[simp] theorem setDrive_dio_dio (d : Drive) (s : State) : (setDrive .dio d s).st.dio = d := rfl
@[simp] theorem setDrive_dio_initialised (d : Drive) (s : State) : (setDrive .dio d s).st.initialised = s.st.initialised := rfl
@[simp] theorem setDrive_dio_halt (d : Drive) (s : State) : (setDrive .dio d s).st.halt = s.st.halt := rfl
@[simp] theorem setDrive_params (l : Line) (d : Drive) (s : State) : (setDrive l d s).params = s.params := by
  cases l <;> rfl
@[simp] theorem setDrive_trace (l : Line) (d : Drive) (s : State) : (setDrive l d s).trace = s.trace := by
  cases l <;> rfl
@[simp] theorem setDrive_frames (l : Line) (d : Drive) (s : State) : (setDrive l d s).frames = s.frames := by
  cases l <;> rfl
@[simp] theorem setDrive_outcomes (l : Line) (d : Drive) (s : State) : (setDrive l d s).outcomes = s.outcomes := by
  cases l <;> rfl
@[simp] theorem setDrive_pending (l : Line) (d : Drive) (s : State) : (setDrive l d s).pending = s.pending := by
  cases l <;> rfl
@[simp] theorem setDrive_rx (l : Line) (d : Drive) (s : State) : (setDrive l d s).rx = s.rx := by
  cases l <;> rfl
@[simp] theorem setDrive_draws (l : Line) (d : Drive) (s : State) : (setDrive l d s).draws = s.draws := by
  cases l <;> rfl

/-! ### `haltAfter` -/

@[simp] theorem haltAfter_done (h : Option Halt) (r : Result) : haltAfter h (.done r) = h := rfl
@[simp] theorem haltAfter_ignored (h : Option Halt) : haltAfter h .ignored = h := rfl
@[simp] theorem haltAfter_fault (h : Option Halt) (r : FaultReason) : haltAfter h (.fault r) = some (.fault r) := rfl
@[simp] theorem haltAfter_refused (h : Option Halt) (r : RefusalReason) : haltAfter h (.refused r) = some (.refused r) := rfl

end Sys2Proof.Machine
end

