-- ==== Sys2Proof/Laws/Ops.lean ====
section
/-!
SUPPORT. For each shared operation one lemma that says once everything it does: the line primitives, START, STOP,
`sendByte`, one frame, the ending of an operation, and the check of `st.initialised`.
-/

namespace Sys2Proof.Machine

theorem driveLine_eq (l : Line) (s : State) :
    driveLine l s = { setDrive l .low s with trace := s.trace ++ [.drive l] } := by
  cases l <;> rfl

theorem releaseLine_eq (l : Line) (s : State) :
    releaseLine l s = { setDrive l .rel s with trace := s.trace ++ [.rel l] } := by
  cases l <;> rfl

/-- `setData` drives DIO low for 0 and releases it for 1 (40_transport.md R67). -/
theorem setDataLine_eq (d : Bool) (s : State) :
    setDataLine d s =
      { s with
        st := { s.st with dio := if d then .rel else .low }
        trace := s.trace ++ [if d then .rel .dio else .drive .dio] } := by
  cases d <;> rfl

/-- START appends its four line events and leaves CLK released and DIO low (40_transport.md R70). -/
theorem transportStart_eq (s : State) :
    transportStart s =
      { s with
        st := { s.st with clk := .rel, dio := .low }
        trace := s.trace ++ startEvents
        frames := s.frames ++ [.start] } := by
  simp [transportStart, driveLine, releaseLine, setDrive, waitBit, record, emit, startEvents]

/-- STOP appends its seven line events and leaves both lines released (40_transport.md R71). -/
theorem transportStop_eq (s : State) :
    transportStop s =
      { s with
        st := { s.st with clk := .rel, dio := .rel }
        trace := s.trace ++ stopEvents
        frames := s.frames ++ [.stop] } := by
  simp [transportStop, driveLine, releaseLine, setDrive, waitBit, record, emit, stopEvents]

/-- One bit appends its five line events (30_encoding.md R48). -/
theorem clockBit_eq (s : State) (d : Bool) :
    clockBit s d =
      { s with
        st := { s.st with clk := .rel, dio := if d then .rel else .low }
        trace := s.trace ++ bitCell d } := by
  cases d <;> simp [clockBit, driveLine, releaseLine, setDataLine, setDrive, waitBit, record, bitCell]

/-- Bits in order append their cells in order. -/
theorem clockBits_trace (bits : List Bool) (s : State) :
    (bits.foldl clockBit s).trace = s.trace ++ bits.flatMap bitCell := by
  induction bits generalizing s with
  | nil => simp
  | cons d rest ih => simp [ih, clockBit_eq]

/-- Bits write nothing but the trace and the drive states of the two lines. -/
theorem clockBits_frame (bits : List Bool) (s : State) :
    bits.foldl clockBit s =
      { s with
        st := { s.st with clk := (bits.foldl clockBit s).st.clk, dio := (bits.foldl clockBit s).st.dio }
        trace := (bits.foldl clockBit s).trace } := by
  induction bits generalizing s with
  | nil => rfl
  | cons d rest ih => rw [List.foldl_cons, ih]; simp [clockBit_eq]

/-- The ACK window samples DIO while it is released, takes one draw, and leaves CLK low (40_transport.md R73). -/
theorem ackWindow_eq (s : State) :
    ackWindow s =
      (ackLevel s,
        { takeDraw s with
          st := { s.st with clk := .low, dio := .rel }
          trace := s.trace ++ ackCell (ackLevel s) }) := by
  simp [ackWindow, ackLevel, sampleDio, sampledLevel, nextDraw, takeDraw, driveLine, releaseLine, setDrive, waitBit,
    record, ackCell]

/-- `sendByte` appends the events of its byte and one `BYTE`, takes one draw, and leaves CLK low and DIO released
(40_transport.md R72). -/
theorem transportSendByte_eq (b : Byte) (s : State) :
    transportSendByte b s =
      (ackOf (ackLevel s),
        { takeDraw s with
          st := { s.st with clk := .low, dio := .rel }
          trace := s.trace ++ byteEvents b (ackLevel s)
          frames := s.frames ++ [.byte b (ackOf (ackLevel s))] }) := by
  have h := clockBits_frame (lsbFirst b) s
  have ht := clockBits_trace (lsbFirst b) s
  rw [transportSendByte, ackWindow_eq, h]
  simp [ht, ackLevel, nextDraw, takeDraw, emit, byteEvents]

@[simp] theorem ackLevels_length (n : Nat) (s : State) : (ackLevels n s).length = n := by
  induction n generalizing s with
  | zero => rfl
  | succ n ih => simp [ackLevels, ih]

/-- The answers of a state depend on its parameters and its draws only. -/
theorem ackLevels_congr {s t : State} (hp : s.params = t.params) (hr : s.rx = t.rx) (hd : s.draws = t.draws)
    (n : Nat) : ackLevels n s = ackLevels n t := by
  induction n generalizing s t with
  | zero => rfl
  | succ n ih =>
    have h1 : ackLevel s = ackLevel t := by simp [ackLevel, nextDraw, hp, hr, hd]
    have h2 := ih (s := takeDraw s) (t := takeDraw t) (by simpa using hp) (by simp [hr]) (by simp [hd])
    simp [ackLevels, h1, h2]

/-- Bytes sent in order append their events in order, each with its own answer. -/
theorem sendDiscarding_foldl (bytes : List Byte) (s : State) :
    bytes.foldl sendDiscarding s =
      { s with
        st := (bytes.foldl sendDiscarding s).st
        trace := s.trace ++ (answered bytes s).flatMap (fun p => byteEvents p.1 p.2)
        frames := s.frames ++ (answered bytes s).map (fun p => .byte p.1 (decide (p.2 = .low)))
        rx := s.rx.drop bytes.length
        draws := s.draws + bytes.length } := by
  induction bytes generalizing s with
  | nil => simp [answered]
  | cons b rest ih =>
    have hc : ackLevels rest.length (sendDiscarding s b) = ackLevels rest.length (takeDraw s) := by
      apply ackLevels_congr <;> simp [sendDiscarding, transportSendByte_eq]
    rw [List.foldl_cons, ih (sendDiscarding s b)]
    simp only [answered, hc]
    simp [sendDiscarding, transportSendByte_eq, ackLevels, ackOf]
    omega

/-- Bytes sent write no field of `st` but the drive states. -/
theorem sendDiscarding_foldl_st (bytes : List Byte) (s : State) :
    (bytes.foldl sendDiscarding s).st =
      { s.st with clk := (bytes.foldl sendDiscarding s).st.clk, dio := (bytes.foldl sendDiscarding s).st.dio } := by
  induction bytes generalizing s with
  | nil => rfl
  | cons b rest ih => rw [List.foldl_cons, ih]; simp [sendDiscarding, transportSendByte_eq]

/-- One frame does what its encoding says and nothing else (30_encoding.md R56). -/
theorem sendFrame_eq (bytes : List Byte) (s : State) : sendFrame bytes s = afterFrame bytes s := by
  have h := sendDiscarding_foldl bytes (transportStart s)
  have hs := sendDiscarding_foldl_st bytes (transportStart s)
  have ha : answered bytes (transportStart s) = answered bytes s := by
    unfold answered
    rw [ackLevels_congr] <;> simp [transportStart_eq]
  rw [sendFrame, transportStop_eq, h, hs, ha]
  simp [transportStart_eq, afterFrame, frameLineEvents, frameLogEvents]

/-! ## The ending of an operation -/

/-- An operation that needs `init` runs when `init` has run. -/
theorem requireInit_of_initialised {body : State → State} {s : State} (h : s.st.initialised = true) :
    requireInit body s = body s := by
  simp [requireInit, h]

/-- An operation that needs `init` is refused before it (41_command_protocol.md R78). -/
theorem requireInit_of_not_initialised {body : State → State} {s : State} (h : s.st.initialised = false) :
    requireInit body s = conclude (.refused .notInitialised) s := by
  simp [requireInit, h]

/-! ## The snapshot keeps its length by type; what is at each position -/

/-- Writing bytes from a position on leaves, at each position, the byte written there, or what was there
(41_command_protocol.md R82). -/
theorem writeAt_getElem (snap : Pattern) (pos : Nat) (bytes : List Byte) (k : Nat) (hk : k < 4) :
    (writeAt snap pos bytes)[k] = if pos ≤ k then bytes.getD (k - pos) snap[k] else snap[k] := by
  induction bytes generalizing snap pos with
  | nil => simp [writeAt]
  | cons b rest ih =>
    rw [writeAt, ih]
    rcases Nat.lt_trichotomy pos k with h | h | h
    · have h1 : pos + 1 ≤ k := h
      have h2 : pos ≤ k := by omega
      have h3 : k - pos = (k - (pos + 1)) + 1 := by omega
      simp [h1, h2, h3, Nat.ne_of_lt h]
    · subst h
      simp
    · have h1 : ¬ pos + 1 ≤ k := by omega
      have h2 : ¬ pos ≤ k := by omega
      simp [h1, h2, Nat.ne_of_gt h]

end Sys2Proof.Machine
end

