-- ==== Sys2Proof/Laws/Update.lean ====
section
/-!
SUPPORT. What the body of `setSegments` does, said once: the three frames, the snapshot, and the ways it can end.
-/

namespace Sys2Proof.Machine

/-- The address field of a position, as a number (20_memory.md R32). -/
theorem positionField_toNat (p : Int) : (positionField p).toNat = (p % 4).toNat := by
  simp [positionField]; omega

/-- `st.ctrl & 0x0F = st.ctrl` because `st.ctrl` is 4 bits (41_command_protocol.md R79, corner case (e)). -/
theorem controlByte_eq (c : BitVec 4) : controlByte c = 0x80#8 ||| c.setWidth 8 := by revert c; decide

/-- The number of bits and the value of a written control register (10_state.md R20, R22). -/
theorem ctrlOfLevel_eq (level : Int) : ctrlOfLevel level = 0x8#4 ||| BitVec.ofNat 4 (level % 8).toNat := by
  have h : ∀ n < 8, enabledNibble (BitVec.ofNat 3 n) = 0x8#4 ||| BitVec.ofNat 4 n := by decide
  exact h _ (by omega)

/-- A write of the control register leaves its hard-wired bit set (10_state.md R21). -/
theorem ctrlOfLevel_enabled (level : Int) : (ctrlOfLevel level).getLsbD 3 = true := by
  unfold ctrlOfLevel
  generalize levelField level = lll
  revert lll
  decide

theorem sendThreeFrames_eq (payload : List Byte) (p : BitVec 2) (s : State) :
    sendThreeFrames payload p s = afterThreeFrames payload p s := by
  simp only [sendThreeFrames, sendFrame_eq, controlByte_eq, afterThreeFrames, dataWriteByte]
  rfl

theorem snapUpdate_eq (payload : List Byte) (p : BitVec 2) : snapUpdate payload p = snapshotOf payload p := by
  apply Vector.ext
  intro k hk
  rw [snapUpdate, writeAt_getElem]
  simp [snapshotOf, blankPattern, blankByte]

/-- The check of 41_command_protocol.md R80 passes exactly when the count fits the segments and the positions. -/
theorem badDigitCount_eq_false {segments : List Byte} {n : Nat} {p : Int} :
    badDigitCount segments n p = false ↔ n ≤ segments.length ∧ (p % 4).toNat + n ≤ 4 := by
  simp [badDigitCount, positionField_toNat, numPositions]

/-- An initialised `setSegments` whose count fits ends as an update. -/
theorem setSegmentsOp_eq {segments : List Byte} {n : Nat} {p : Int} {s : State} (hi : s.st.initialised = true)
    (hb : badDigitCount segments n p = false) :
    setSegmentsOp segments n p s = afterUpdate (segments.take n) (positionField p) s := by
  rw [setSegmentsOp, requireInit_of_initialised hi, setSegmentsBody, hb]
  have hr : (afterThreeFrames (segments.take n) (positionField p) s).st.retain = s.st.retain := rfl
  simp only [Bool.false_eq_true, if_false, sendThreeFrames_eq, retainSnapshot, hr, snapUpdate_eq, afterUpdate]
  split <;> rfl

/-- The ways a `setSegments` can end: refused before `init`, a fault of its count, or an update. -/
theorem setSegmentsOp_cases (segments : List Byte) (n : Nat) (p : Int) (s : State) :
    (s.st.initialised = false ∧ setSegmentsOp segments n p s = conclude (.refused .notInitialised) s) ∨
    (s.st.initialised = true ∧ badDigitCount segments n p = true ∧
      setSegmentsOp segments n p s = conclude (.fault .badDigitCount) s) ∨
    (s.st.initialised = true ∧ badDigitCount segments n p = false ∧
      setSegmentsOp segments n p s = afterUpdate (segments.take n) (positionField p) s) := by
  cases hi : s.st.initialised with
  | false => exact .inl ⟨rfl, requireInit_of_not_initialised hi⟩
  | true =>
    cases hb : badDigitCount segments n p with
    | true => exact .inr (.inl ⟨rfl, rfl, by rw [setSegmentsOp, requireInit_of_initialised hi, setSegmentsBody, hb]; rfl⟩)
    | false => exact .inr (.inr ⟨rfl, rfl, setSegmentsOp_eq hi hb⟩)

end Sys2Proof.Machine
end

