-- ==== Sys2Proof/Laws/Exec.lean ====
section
/-!
SUPPORT. What one operation can do, said once: every next state `exec` gives is one of six forms.
-/

namespace Sys2Proof.Machine

/-- The operations that are or expand to `setSegments` (30_encoding.md R62). -/
def isUpdate : Instr → Bool
  | .setSegments _ _ _ | .clear | .displayInteger _ | .displayTime _ _ => true
  | .dataWrite | .addrSet _ | .displayCtrl _ | .segmentData _ | .drive _ | .release _ | .setData _ | .wait | .sample
  | .start | .stop | .sendByte _ | .init _ _ _ _ _ | .setBrightness _ | .getSegments | .digitToSegment _ => false

/-- The forms of the state after an operation. -/
inductive ExecCase (i : Instr) (s t : State) : Prop where
  /-- a byte sent by itself: the wire bytes and `sendByte` -/
  | byte (b : Byte) : i.hostCallable = false → t = afterByte b s → ExecCase i s t
  /-- a line primitive, START or STOP: the drive states its events leave, the events, at most one draw used -/
  | line (events : List LineEvent) (log : List FrameEvent) (r : Result) (rx : List Draw) (draws : Nat) :
      i.hostCallable = false →
      t = { s with
        st := { s.st with clk := lastDrive .clk s.st.clk events, dio := lastDrive .dio s.st.dio events }
        trace := s.trace ++ events
        frames := s.frames ++ log
        outcomes := s.outcomes ++ [.done r]
        rx := rx
        draws := draws } → ExecCase i s t
  /-- a host operation that ends with an outcome and no other effect -/
  | outcome (o : CallOutcome) : i.hostCallable = true → t = conclude o s → ExecCase i s t
  /-- a completed update -/
  | update (payload : List Byte) (p : BitVec 2) :
      isUpdate i = true → s.st.initialised = true → t = afterUpdate payload p s → ExecCase i s t
  /-- a completed `setBrightness` -/
  | brightness (level : Int) :
      i = .setBrightness level → s.st.initialised = true →
      t = conclude (.done .unit) { s with st := { s.st with ctrl := ctrlOfLevel level } } → ExecCase i s t
  /-- a completed `init` -/
  | initialised (clk dio : LineId) (level : Int) (delay : Nat) (retain : Bool) :
      i = .init clk dio level delay retain → clk ≠ dio → s.st.initialised = false →
      t = conclude (.done .unit) (initialise clk dio level delay retain s) → ExecCase i s t

/-- A byte sent as an operation of its own ends as `afterByte` says. -/
theorem sendByte_conclude (b : Byte) (s : State) :
    conclude (.done (.ack (transportSendByte b s).1)) (transportSendByte b s).2 = afterByte b s := by
  simp [transportSendByte_eq, conclude, afterByte, takeDraw, ackOf]

theorem execCase_setSegmentsOp {i : Instr} (hi : isUpdate i = true) (hc : i.hostCallable = true)
    (segments : List Byte) (n : Nat) (p : Int) (s : State) : ExecCase i s (setSegmentsOp segments n p s) := by
  obtain ⟨_, h⟩ | ⟨_, _, h⟩ | ⟨h1, _, h⟩ := setSegmentsOp_cases segments n p s
  · exact .outcome _ hc h
  · exact .outcome _ hc h
  · exact .update _ _ hi h1 h

theorem execCase_requireInit {i : Instr} (hc : i.hostCallable = true) {body : State → State} {s : State}
    (hb : s.st.initialised = true → ExecCase i s (body s)) : ExecCase i s (requireInit body s) := by
  unfold requireInit
  split
  · exact hb ‹_›
  · exact .outcome _ hc rfl

/-- Every next state of `exec` is one of the six forms. -/
theorem exec_next_cases {i : Instr} {s t : State} (h : exec i s = .next t) : ExecCase i s t := by
  cases i <;>
    simp only [exec, execDataWrite, execAddrSet, execDisplayCtrl, execSegmentData, execDrive, execRelease, execSetData,
      execWait, execSample, execStart, execStop, execSendByte, execInit, execSetSegments, execSetBrightness, execClear,
      execGetSegments, execDigitToSegment, execDisplayInteger, execDisplayTime, Host.Outcome.next.injEq] at h
  case dataWrite => exact .byte _ rfl (h ▸ sendByte_conclude _ s)
  case addrSet => exact .byte _ rfl (h ▸ sendByte_conclude _ s)
  case displayCtrl => exact .byte _ rfl (h ▸ sendByte_conclude _ s)
  case segmentData => exact .byte _ rfl (h ▸ sendByte_conclude _ s)
  case sendByte => exact .byte _ rfl (h ▸ sendByte_conclude _ s)
  case drive l =>
    subst h
    cases l
    · exact .line [.drive .clk] [] .unit s.rx s.draws rfl
        (by simp [driveLine, setDrive, conclude, record, lastDrive])
    · exact .line [.drive .dio] [] .unit s.rx s.draws rfl
        (by simp [driveLine, setDrive, conclude, record, lastDrive])
  case release l =>
    subst h
    cases l
    · exact .line [.rel .clk] [] .unit s.rx s.draws rfl
        (by simp [releaseLine, setDrive, conclude, record, lastDrive])
    · exact .line [.rel .dio] [] .unit s.rx s.draws rfl
        (by simp [releaseLine, setDrive, conclude, record, lastDrive])
  case setData d =>
    subst h
    cases d
    · exact .line [.drive .dio] [] .unit s.rx s.draws rfl (by simp [setDataLine_eq, conclude, lastDrive])
    · exact .line [.rel .dio] [] .unit s.rx s.draws rfl (by simp [setDataLine_eq, conclude, lastDrive])
  case wait =>
    subst h
    exact .line [.wait] [] .unit s.rx s.draws rfl (by simp [waitBit, conclude, record, lastDrive])
  case sample =>
    subst h
    exact .line [.sample (sampledLevel s)] [] (.level (sampledLevel s)) s.rx.tail (s.draws + 1) rfl
      (by simp [sampleDio, takeDraw, conclude, record, lastDrive])
  case start =>
    subst h
    exact .line startEvents [.start] .unit s.rx s.draws rfl
      (by simp [transportStart_eq, conclude, startEvents, lastDrive])
  case stop =>
    subst h
    exact .line stopEvents [.stop] .unit s.rx s.draws rfl (by simp [transportStop_eq, conclude, stopEvents, lastDrive])
  case init =>
    split at h
    · injection h with h
      exact .outcome _ rfl h.symm
    · split at h
      · injection h with h
        exact .outcome _ rfl h.symm
      · injection h with h
        exact .initialised _ _ _ _ _ rfl ‹_› (by simpa using ‹¬ s.st.initialised = true›) h.symm
  case setSegments => exact h ▸ execCase_setSegmentsOp rfl rfl _ _ _ _
  case setBrightness => exact h ▸ execCase_requireInit rfl fun hi => .brightness _ rfl hi rfl
  case clear => exact h ▸ execCase_setSegmentsOp rfl rfl _ _ _ _
  case getSegments => exact h ▸ execCase_requireInit rfl fun _ => .outcome _ rfl rfl
  case digitToSegment => exact .outcome _ rfl h.symm
  case displayInteger =>
    refine h ▸ execCase_requireInit rfl fun _ => ?_
    split
    · exact execCase_setSegmentsOp rfl rfl _ _ _ _
    · exact .outcome _ rfl rfl
  case displayTime =>
    refine h ▸ execCase_requireInit rfl fun _ => ?_
    split
    · exact execCase_setSegmentsOp rfl rfl _ _ _ _
    · exact .outcome _ rfl rfl

end Sys2Proof.Machine
end

