-- ==== Sys2Proof/Laws/PerInstr.lean ====
section
/-!
SUPPORT. The family of lemmas made per instruction: `EncodedForm`, the form of each instruction's encoding, one lemma
per constructor of `Instr`.
-/

namespace Sys2Proof.Laws.EncodedForm

/-- An instruction the table gives bits is encoded as a byte that meets its row's mask and match, and every other one
as a line of call syntax that begins with its mnemonic and an opening parenthesis. -/
def Statement (i : Instr) : Prop :=
  match encode i with
  | .command b | .payload b => ∃ mask value, rowBits i = some (mask, value) ∧ b &&& mask = value
  | .line text => rowBits i = none ∧ (mnemonic i ++ ['(']) <+: text
  | .call _ => False

/-- A call as it is written begins with its name and an opening parenthesis. -/
theorem callText_prefix (name : List Char) (args : List (List Char)) : (name ++ ['(']) <+: callText name args :=
  ⟨commaSeparated args ++ [')'], by simp [callText]⟩

theorem dataWrite : Statement .dataWrite := ⟨_, _, rfl, by decide⟩

theorem addrSet (a : BitVec 2) : Statement (.addrSet a) := ⟨_, _, rfl, by revert a; decide⟩

theorem displayCtrl (a : BitVec 3) : Statement (.displayCtrl a) := ⟨_, _, rfl, by revert a; decide⟩

theorem segmentData (a : Byte) : Statement (.segmentData a) := ⟨_, _, rfl, by simp⟩

theorem drive (a : Line) : Statement (.drive a) := ⟨rfl, callText_prefix _ _⟩

theorem release (a : Line) : Statement (.release a) := ⟨rfl, callText_prefix _ _⟩

theorem setData (a : Bool) : Statement (.setData a) := ⟨rfl, callText_prefix _ _⟩

theorem wait : Statement .wait := ⟨rfl, callText_prefix _ _⟩

theorem sample : Statement .sample := ⟨rfl, callText_prefix _ _⟩

theorem start : Statement .start := ⟨rfl, callText_prefix _ _⟩

theorem stop : Statement .stop := ⟨rfl, callText_prefix _ _⟩

theorem sendByte (a : Nat) : Statement (.sendByte a) := ⟨rfl, callText_prefix _ _⟩

theorem init (a : LineId) (b : LineId) (c : Int) (d : Nat) (e : Bool) : Statement (.init a b c d e) := ⟨rfl, callText_prefix _ _⟩

theorem setSegments (a : List Nat) (b : Nat) (c : Int) : Statement (.setSegments a b c) := ⟨rfl, callText_prefix _ _⟩

theorem setBrightness (a : Int) : Statement (.setBrightness a) := ⟨rfl, callText_prefix _ _⟩

theorem clear : Statement .clear := ⟨rfl, callText_prefix _ _⟩

theorem getSegments : Statement .getSegments := ⟨rfl, callText_prefix _ _⟩

theorem digitToSegment (a : Int) : Statement (.digitToSegment a) := ⟨rfl, callText_prefix _ _⟩

theorem displayInteger (a : Int) : Statement (.displayInteger a) := ⟨rfl, callText_prefix _ _⟩

theorem displayTime (a : Int) (b : Int) : Statement (.displayTime a b) := ⟨rfl, callText_prefix _ _⟩

end Sys2Proof.Laws.EncodedForm
end

