-- ==== Sys2Proof/Laws/Step.lean ====
section
/-!
SUPPORT. What a step can do, said once: the inversion lemma of `step`, and `step` on a placed request.
-/

namespace Sys2Proof.Machine

/-- A step that gives a next state is idle, or it takes the oldest request and runs its operation. -/
theorem step_next_cases {s t : State} (h : step s = .next t) :
    s.running ∧
      ((s.pending = [] ∧ t = s) ∨
        ∃ r rest i, s.pending = r :: rest ∧ decode r = .ok i ∧ exec i { s with pending := rest } = .next t) := by
  unfold step at h
  split at h
  · cases h
  · cases h
  · refine ⟨‹_›, ?_⟩
    cases hp : s.pending with
    | nil =>
      simp only [takeRequest, hp] at h
      injection h with h
      exact .inl ⟨rfl, h.symm⟩
    | cons r rest =>
      cases hd : decode r with
      | error e => simp [takeRequest, hp, hd] at h
      | ok i =>
        simp only [takeRequest, hp, hd] at h
        exact .inr ⟨r, rest, i, rfl, hd, h⟩

/-- A running machine whose oldest request stands for an operation runs it. -/
theorem step_of_request {s : State} {r : Request} {rest : List Request} {i : Instr} (hs : s.running)
    (hp : s.pending = r :: rest) (hd : decode r = .ok i) : step s = exec i { s with pending := rest } := by
  simp [step, hs, takeRequest, hp, hd]

/-- The wire byte that `decodeTableWord` reads is the one `placeWireByte` places. -/
theorem placeWireByte_pending {nbits w : Nat} {i : Instr} (h : decodeTableWord nbits w = some i) (s : State) :
    ∃ r, placeWireByte nbits w s = { s with pending := r :: s.pending } ∧ decode r = .ok i := by
  unfold decodeTableWord at h
  split at h
  · next hc =>
    refine ⟨requestOfByte (BitVec.ofNat 8 w), by simp [placeWireByte, hc], ?_⟩
    split at h
    · next j hj => rw [hj]; simpa using h
    · cases h
  · cases h

end Sys2Proof.Machine
end

