-- ==== Sys2Proof/Laws/Text.lean ====
section
/-!
SUPPORT. The call syntax: numbers read back as they are written, and what the tokenizer does with a word and with a
punctuation character.
-/

namespace Sys2Proof

/-- A decimal digit is written as a word character with its value, and only zero as `0`. -/
theorem digitChar_spec (d : Nat) (h : d < 10) :
    digitValue (digitChar d) = some d ∧ wordChar (digitChar d) = true ∧ digitChar d ≠ 'x' ∧ digitChar d ≠ 'b' := by
  have all : ∀ k : Fin 10, digitValue (digitChar k) = some k.val ∧ wordChar (digitChar k) = true ∧
      digitChar k ≠ 'x' ∧ digitChar k ≠ 'b' := by decide
  exact all ⟨d, h⟩

theorem readDigits_append (base acc : Nat) (xs ys : List Char) :
    readDigits base acc (xs ++ ys) = (readDigits base acc xs).bind fun a => readDigits base a ys := by
  induction xs generalizing acc with
  | nil => rfl
  | cons c cs ih =>
    simp only [List.cons_append, readDigits]
    cases digitValue c with
    | none => rfl
    | some d => by_cases h : d < base <;> simp [h, ih]

theorem readDigits_decimalDigits (fuel n : Nat) (h : n < fuel) : readDigits 10 0 (decimalDigits fuel n) = some n := by
  induction fuel generalizing n with
  | zero => omega
  | succ fuel ih =>
    rw [decimalDigits]
    by_cases hn : n < 10
    · simp [hn, readDigits, digitChar_spec n hn]
    · rw [if_neg hn, readDigits_append, ih _ (by omega)]
      simp [readDigits, digitChar_spec (n % 10) (by omega), Nat.mod_lt]
      omega

theorem decimalDigits_chars (fuel n : Nat) :
    ∀ c ∈ decimalDigits fuel n, wordChar c = true ∧ c ≠ 'x' ∧ c ≠ 'b' := by
  induction fuel generalizing n with
  | zero => simp [decimalDigits]
  | succ fuel ih =>
    rw [decimalDigits]
    by_cases hn : n < 10
    · simp [hn, digitChar_spec n hn]
    · rw [if_neg hn]
      intro c hc
      rcases List.mem_append.mp hc with hc | hc
      · exact ih _ c hc
      · simp only [List.mem_singleton] at hc
        exact hc ▸ (digitChar_spec (n % 10) (by omega)).2

theorem natText_ne_nil (n : Nat) : natText n ≠ [] := by
  rw [natText, decimalDigits]
  split <;> simp

theorem natText_wordChar (n : Nat) : ∀ c ∈ natText n, wordChar c = true :=
  fun c hc => (decimalDigits_chars _ _ c hc).1

/-- A natural number reads back as it is written. -/
theorem readNat_natText (n : Nat) : readNat (natText n) = some n := by
  have hr := readDigits_decimalDigits (n + 1) n (by omega)
  have hc := decimalDigits_chars (n + 1) n
  have hn := natText_ne_nil n
  unfold natText at hn ⊢
  generalize decimalDigits (n + 1) n = digits at *
  unfold readNat
  split
  · exact absurd rfl hn
  · exact absurd rfl (hc 'b' (by simp)).2.2
  · exact absurd rfl (hc 'x' (by simp)).2.1
  · exact hr

/-- The characters of a word are read into the word. -/
theorem tokensFrom_word (w ws rest : List Char) (h : ∀ c ∈ ws, wordChar c = true) :
    tokensFrom w (ws ++ rest) = tokensFrom (w ++ ws) rest := by
  induction ws generalizing w with
  | nil => simp
  | cons c cs ih =>
    simp only [List.cons_append, tokensFrom, h c (by simp), if_true]
    rw [ih _ (fun c hc => h c (by simp [hc]))]
    simp

/-- A punctuation character ends the word before it and is a token. -/
theorem tokensFrom_punctuation {w rest : List Char} {c : Char} {t : Token} {ts : List Token} (hw : wordChar c = false)
    (hs : c ≠ ';') (hb : c ≠ ' ') (ht : c ≠ '\t') (hp : punctuation c = some t) (h : tokensFrom [] rest = .ok ts) :
    tokensFrom w (c :: rest) = .ok (flushWord w (t :: ts)) := by
  simp [tokensFrom, hw, hs, hb, ht, hp, h]

end Sys2Proof
end

