-- ==== Sys2Proof/Tests/Slice0.lean ====
section
/-!
SUPPORT. The model's own tests: the refusals of each well-formedness check, words written out from the spec's
encodings, one step of each instruction against the vectors of spec/95_test_vectors.md, and for each statement that has
hypotheses a state and operands that meet them together.
-/

namespace Sys2Proof.Tests

open Sys2Proof.Machine

/-! ## Helpers -/

/-- The next state of an outcome, if it has one. -/
def nextOf (o : Host.Outcome State Fault Refusal) : Option State :=
  match o with
  | .next t => some t
  | .fault _ => none
  | .refused _ => none

/-- The line identifiers `C` and `D` of the test vectors. -/
def lineC : LineId := ⟨['C']⟩
def lineD : LineId := ⟨['D']⟩

/-- The receiver pulls DIO at every sample, or at none. -/
def acks (n : Nat) : List Draw := List.replicate n { pullDIO := true, floats := .high }
def nacks (n : Nat) : List Draw := List.replicate n { pullDIO := false, floats := .high }

/-- The start state of spec/95_test_vectors.md 2.2, "after `init(C, D, 7, 100, true)`", with the receiver's next seven
answers ACK. -/
def ready : State :=
  { State.reset with
    st := { clkLine := lineC, dioLine := lineD, bitDelay := 100, ctrl := 0xF#4, retain := true,
            snap := some #v[0x00#8, 0x00#8, 0x00#8, 0x00#8], clk := .rel, dio := .rel, initialised := true,
            halt := none }
    rx := acks 7 }

/-- The same without a snapshot. -/
def readyNoSnap : State := { ready with st := { ready.st with retain := false, snap := none } }

/-- The bytes of the frames an operation logged, from a state that had logged none. -/
def framesAfter (o : Host.Outcome State Fault Refusal) : Option (List (List Byte)) :=
  (nextOf o).map fun t => framesOfLog t.frames []

def snapAfter (o : Host.Outcome State Fault Refusal) : Option Pattern := (nextOf o).bind fun t => t.st.snap
def outcomesAfter (o : Host.Outcome State Fault Refusal) : Option (List CallOutcome) := (nextOf o).map fun t => t.outcomes
def traceAfter (o : Host.Outcome State Fault Refusal) : Option (List LineEvent) := (nextOf o).map fun t => t.trace
def haltOf (o : Host.Outcome State Fault Refusal) : Option Halt := (nextOf o).bind fun t => t.st.halt

/-! ## Well-formedness: an ill-formed term for each check -/

theorem test_wf_refuses_empty_line_name : (Instr.init ⟨[]⟩ lineD 0 100 true).wf = false := by decide
theorem test_wf_refuses_line_name_with_a_comma : (Instr.init lineC ⟨['D', ',']⟩ 0 100 true).wf = false := by decide
theorem test_wf_refuses_payload_past_position_3 : (WireFrame.address 3 [1#8, 2#8]).wf = false := by decide
theorem test_internal_operation_is_no_host_call : (Request.call .start).isHostCall = false := by decide
theorem test_raw_byte_is_no_host_call : (Request.command 0x40#8).isHostCall = false := by decide
theorem test_undecodable_line_is_no_host_call : (Request.line ['?']).isHostCall = false := by decide

/-! ## Decoding: words written out from spec/30_encoding.md, lines from spec/95_test_vectors.md -/

theorem test_decode_data_write : decodeTableWord 8 0b01000000 = some .dataWrite := by decide
theorem test_decode_addr_set : decodeTableWord 8 0b11000010 = some (.addrSet 2) := by decide
theorem test_decode_display_ctrl : decodeTableWord 8 0b10001011 = some (.displayCtrl 3) := by decide
theorem test_decode_segment_data : decodeTableWord 8 0b01101101 = some (.segmentData 0x6D#8) := by decide
theorem test_decode_rejects_display_off : decode (.command 0x87#8) = .error (.notACommandByte 0x87#8) := by decide
theorem test_decode_rejects_position_4 : decode (.command 0xC4#8) = .error (.notACommandByte 0xC4#8) := by decide
theorem test_decode_frame_2 : decodeFrame [0xC2#8, 0x76#8] = .ok (.address 2 [0x76#8]) := by decide
theorem test_decode_frame_rejects_long_payload :
    decodeFrame [0xC3#8, 0x01#8, 0x02#8] = .error .payloadPastLastPosition := by decide
theorem test_decode_frame_rejects_bytes_after_command : decodeFrame [0x40#8, 0x00#8] = .error .bytesAfterCommand := by
  decide
theorem test_decode_line_init :
    decode (.line "init(C, D, 3, 100, true)     ; st.ctrl = 0xB".toList) = .ok (.init lineC lineD 3 100 true) := by
  decide
theorem test_decode_line_init_default_delay :
    decode (.line "init(C, D, -1, false)".toList) = .ok (.init lineC lineD (-1) 100 false) := by decide
theorem test_decode_line_set_segments_defaults :
    decode (.line "setSegments([0x3F,0x06])".toList) = .ok (.setSegments [0x3F, 0x06] 4 0) := by decide
theorem test_decode_line_set_segments :
    decode (.line "setSegments([0x76, 0x79], 2, 6)".toList) = .ok (.setSegments [0x76, 0x79] 2 6) := by decide
theorem test_decode_line_display_time : decode (.line "displayTime(9, 5)".toList) = .ok (.displayTime 9 5) := by decide
theorem test_decode_line_send_byte : decode (.line "sendByte(0b10110010)".toList) = .ok (.sendByte 0xB2) := by decide
/-- The spelling of the bit is the model's (log 10). -/
theorem test_decode_line_set_data : decode (.line "setData(0b1)".toList) = .ok (.setData true) ∧
    decode (.line "setData(0x00)".toList) = .ok (.setData false) ∧
    decode (.line "setData(2)".toList) = .error (.badArguments "setData".toList) := by decide
theorem test_decode_line_sample : decode (.line "sample(DIO)".toList) = .ok .sample := by decide
theorem test_decode_line_rejects_comment_only : decode (.line "; comment".toList) = .error .noCall := by decide
theorem test_decode_line_rejects_unknown :
    decode (.line "getBrightness()".toList) = .error (.unknownOperation "getBrightness".toList) := by decide
theorem test_decode_line_rejects_sample_clk :
    decode (.line "sample(CLK)".toList) = .error (.badArguments "sample".toList) := by decide
theorem test_encode_line : encode (.displayInteger (-42)) = .line "displayInteger(-42)".toList := by decide

/-! ## Line primitives and transport (spec/95_test_vectors.md 2.1) -/

theorem test_drive_clk_records : (nextOf (exec (.drive .clk) ready)).map (fun t => (t.st.clk, t.trace)) =
    some (.low, [.drive .clk]) := by decide
theorem test_release_dio_when_released : traceAfter (exec (.release .dio) ready) = some [.rel .dio] := by decide
theorem test_set_data_0 : traceAfter (exec (.setData false) ready) = some [.drive .dio] := by decide
theorem test_set_data_1 : traceAfter (exec (.setData true) ready) = some [.rel .dio] := by decide
theorem test_wait : traceAfter (exec .wait ready) = some [.wait] := by decide
theorem test_sample_pulled : outcomesAfter (exec .sample ready) = some [.done (.level .low)] := by decide
theorem test_sample_not_pulled :
    outcomesAfter (exec .sample { ready with rx := nacks 1 }) = some [.done (.level .high)] := by decide
/-- TV-T1. -/
theorem test_start_from_idle : (nextOf (exec .start ready)).map (fun t => (t.trace, t.st.clk, t.st.dio)) =
    some ([.rel .dio, .rel .clk, .wait, .drive .dio], .rel, .low) := by decide
/-- TV-T2. -/
theorem test_stop_after_byte :
    (nextOf (exec .stop { ready with st := { ready.st with clk := .low } })).map
      (fun t => (t.trace, t.st.clk, t.st.dio)) =
    some ([.drive .clk, .wait, .drive .dio, .wait, .rel .clk, .wait, .rel .dio], .rel, .rel) := by decide
/-- TV-T3, the DIO actions of `0xB2` in order, and TV-T6, a wider value. -/
theorem test_send_byte_trace : traceAfter (exec (.sendByte 0x1B2) ready) = some
    ([.drive .clk, .drive .dio, .wait, .rel .clk, .wait] ++ [.drive .clk, .rel .dio, .wait, .rel .clk, .wait] ++
     [.drive .clk, .drive .dio, .wait, .rel .clk, .wait] ++ [.drive .clk, .drive .dio, .wait, .rel .clk, .wait] ++
     [.drive .clk, .rel .dio, .wait, .rel .clk, .wait] ++ [.drive .clk, .rel .dio, .wait, .rel .clk, .wait] ++
     [.drive .clk, .drive .dio, .wait, .rel .clk, .wait] ++ [.drive .clk, .rel .dio, .wait, .rel .clk, .wait] ++
     [.drive .clk, .rel .dio, .rel .clk, .wait, .sample .low, .drive .clk]) := by decide
/-- TV-T4. -/
theorem test_send_byte_nack : (nextOf (exec (.sendByte 0xB2) { ready with rx := nacks 1 })).map
    (fun t => (t.outcomes, t.frames, t.st.clk, t.st.dio)) =
    some ([.done (.ack false)], [.byte 0xB2#8 false], .low, .rel) := by decide
/-- TV-T5, the first rows. -/
theorem test_data_write_byte : (nextOf (exec .dataWrite ready)).map (fun t => t.frames) = some [.byte 0x40#8 true] := by
  decide
theorem test_addr_set_byte : (nextOf (exec (.addrSet 3) ready)).map (fun t => t.frames) = some [.byte 0xC3#8 true] := by
  decide
theorem test_display_ctrl_byte :
    (nextOf (exec (.displayCtrl 7) ready)).map (fun t => t.frames) = some [.byte 0x8F#8 true] := by decide
theorem test_segment_data_byte :
    (nextOf (exec (.segmentData 0xFF#8) ready)).map (fun t => t.frames) = some [.byte 0xFF#8 true] := by decide
theorem test_lsb_first : lsbFirst 0b10110010#8 = [false, true, false, false, true, true, false, true] := by decide

/-! ## Command protocol (spec/95_test_vectors.md 2.2) -/

/-- TV-C21. -/
theorem test_init : (nextOf (exec (.init lineC lineD 11 50 false) State.reset)).map
    (fun t => (t.st.ctrl, t.st.bitDelay, t.st.snap, t.trace)) =
    some (0xB#4, 50, none, [.rel .clk, .rel .dio]) := by decide
/-- TV-C19. -/
theorem test_init_twice : haltOf (exec (.init lineC lineC 0 100 false) ready) = some (.refused .alreadyInitialised) := by
  decide
/-- TV-C4: the position wraps. -/
theorem test_set_segments_wraps :
    framesAfter (exec (.setSegments [0x01] 1 5) ready) = some [[0x40#8], [0xC1#8, 0x01#8], [0x8F#8]] := by decide
/-- TV-C2: the snapshot is zeroed first. -/
theorem test_set_segments_zeroes_snapshot :
    snapAfter (exec (.setSegments [0x76] 1 2)
      { ready with st := { ready.st with snap := some #v[0x3F#8, 0x06#8, 0x5B#8, 0x4F#8] } }) =
    some #v[0x00#8, 0x00#8, 0x76#8, 0x00#8] := by decide
/-- TV-C6. -/
theorem test_set_segments_faults : (nextOf (exec (.setSegments [1, 2] 2 3) ready)).map (fun t => (t.st.halt, t.trace)) =
    some (some (.fault .badDigitCount), []) := by decide
/-- TV-C13. -/
theorem test_set_brightness_minus_1 : (nextOf (exec (.setBrightness (-1)) readyNoSnap)).map (fun t => (t.st.ctrl, t.trace)) =
    some (0xF#4, []) := by decide
/-- TV-C12. -/
theorem test_set_brightness_200 : (nextOf (exec (.setBrightness 200) ready)).map (fun t => t.st.ctrl) = some 0x8#4 := by
  decide
/-- TV-C15. -/
theorem test_clear :
    framesAfter (exec .clear ready) = some [[0x40#8], [0xC0#8, 0x00#8, 0x00#8, 0x00#8, 0x00#8], [0x8F#8]] := by
  set_option maxRecDepth 2000 in decide
/-- TV-C16. -/
theorem test_get_segments :
    outcomesAfter (exec .getSegments { ready with st := { ready.st with snap := some #v[0#8, 0#8, 0x76#8, 0#8] } }) =
    some [.done (.pattern #v[0x00#8, 0x00#8, 0x76#8, 0x00#8])] := by decide
/-- TV-C17. -/
theorem test_get_segments_no_snapshot : haltOf (exec .getSegments readyNoSnap) = some (.refused .noSnapshot) := by decide

/-! ## Digit encoding (spec/95_test_vectors.md 2.3) -/

/-- TV-E1. -/
theorem test_digit_to_segment_minus_1 :
    outcomesAfter (exec (.digitToSegment (-1)) State.reset) = some [.done (.byte 0x71#8)] := by decide
theorem test_digit_to_segment_1A :
    outcomesAfter (exec (.digitToSegment 0x1A) State.reset) = some [.done (.byte 0x77#8)] := by decide
/-- TV-E2. -/
theorem test_int_pattern_minus_42 : intPattern defaultSegLut (-42) = [0x00#8, 0x40#8, 0x66#8, 0x5B#8] := by decide
theorem test_int_pattern_minus_999 : intPattern defaultSegLut (-999) = [0x40#8, 0x6F#8, 0x6F#8, 0x6F#8] := by decide
theorem test_int_pattern_1005 : intPattern defaultSegLut 1005 = [0x06#8, 0x3F#8, 0x3F#8, 0x6D#8] := by decide
theorem test_int_pattern_0 : intPattern defaultSegLut 0 = [0x00#8, 0x00#8, 0x00#8, 0x3F#8] := by decide
theorem test_display_integer : snapAfter (exec (.displayInteger 808) ready) = some #v[0x00#8, 0x7F#8, 0x3F#8, 0x7F#8] := by
  set_option maxRecDepth 2000 in decide
theorem test_display_integer_ignored : (nextOf (exec (.displayInteger (-1000)) ready)).map
    (fun t => (t.outcomes, t.trace, t.st.halt)) = some ([.ignored], [], none) := by decide
/-- TV-E3. -/
theorem test_time_pattern_9_5 : timePattern defaultSegLut 9 5 = [0x3F#8, 0xEF#8, 0x3F#8, 0x6D#8] := by decide
theorem test_display_time_ignored : outcomesAfter (exec (.displayTime (-1) 0) ready) = some [.ignored] := by decide
/-- TV-E4: the refusal wins over the range check. -/
theorem test_outcome_priority : haltOf (exec (.displayInteger 12345) State.reset) = some (.refused .notInitialised) := by
  decide

/-! ## Steps -/

theorem test_step_runs_wire_word : (nextOf (step (State.reset.withFetchWord 8 0xC0))).isSome = true := by decide
theorem test_step_takes_oldest_request : (nextOf (step { ready with pending := [.call (.setBrightness 0), .call .clear] })).map
    (fun t => (t.st.ctrl, t.pending)) = some (0x8#4, [.call .clear]) := by decide

/-! ## Reading a recorded trace (spec/30_encoding.md R57) -/

theorem test_scan_frame : (scanTrace (frameLineEvents [(0x8F#8, .low), (0xB2#8, .high)])).log =
    [.start, .byte 0x8F#8 true, .byte 0xB2#8 false, .stop] := by decide

/-! ## The hypotheses of each statement are met -/

theorem witness_DecodeEncodeRoundTrip : (Instr.init lineC lineD (-1) 0 true).wf = true := by decide
theorem witness_FrameBytesRoundTrip : (WireFrame.address 3 [0xFF#8]).wf = true ∧
    decodeFrame [0xC0#8, 1#8, 2#8, 3#8, 4#8] = .ok (.address 0 [1#8, 2#8, 3#8, 4#8]) := by decide
theorem witness_StepRunsTheDecodedRequest :
    ready.st.halt = none ∧ ({ ready with pending := [.call .clear] } : State).pending = [.call .clear] ∧
      decode (.call .clear) = .ok .clear ∧ decodeTableWord 8 0xFF = some (.segmentData 0xFF#8) := by decide
theorem witness_StepWithoutAnOperation :
    ready.st.halt = none ∧ ready.pending = [] ∧ decode (.command 0x00#8) = .error (.notACommandByte 0x00#8) := by decide
theorem witness_HaltedStateHasNoStep :
    haltOf (exec (.setSegments [] 1 0) ready) = some (.fault .badDigitCount) ∧
      haltOf (exec .clear State.reset) = some (.refused .notInitialised) := by decide
/-- One state for each clause: driven by the block; pulled by the receiver; released with a pull-up; released without. -/
theorem witness_SampleReadsTheWiredLevel :
    ({ ready with st := { ready.st with dio := .low } } : State).st.dio = .low ∧
    (nextDraw ready).pullDIO = true ∧
    (nextDraw { ready with rx := nacks 1 }).pullDIO = false ∧ ready.st.dio = .rel ∧ ready.params.pullupPresent = true ∧
    ({ ready with params := { ready.params with pullupPresent := false }, rx := nacks 1 } : State).params.pullupPresent =
      false := by decide
theorem witness_SendByteCompletes : ackLevel ready = .low ∧ ackLevel { ready with rx := nacks 1 } = .high := by decide
theorem witness_AckIsTheReceiversPull : State.reset.params.pullupPresent = true := by decide
theorem witness_DriveStatesFollowTheTrace : (nextOf (exec .start State.reset)).isSome = true := by decide
theorem witness_InternalOperationsTouchOnlyTheLines : (Instr.sendByte 0).hostCallable = false := by decide
theorem witness_InitCompletes : State.reset.st.initialised = false ∧ lineC ≠ lineD := by decide
theorem witness_InitRefusals : ready.st.initialised = true ∧ State.reset.st.initialised = false ∧ lineC = lineC := by
  decide
theorem witness_HostOperationsNeedInit :
    State.reset.st.initialised = false ∧ Instr.clear.hostCallable = true ∧
      (∀ clk dio level delay retain, Instr.clear ≠ .init clk dio level delay retain) ∧
      (∀ v, Instr.clear ≠ .digitToSegment v) :=
  ⟨rfl, rfl, fun _ _ _ _ _ => nofun, fun _ => nofun⟩
/-- A full update, and the last position reached by a wrapped address. -/
theorem witness_SetSegmentsCompletes :
    ready.st.initialised = true ∧ 4 ≤ [1, 2, 3, 4].length ∧ ((0 : Int) % 4).toNat + 4 ≤ 4 ∧
      1 ≤ [1, 2].length ∧ ((-1 : Int) % 4).toNat + 1 ≤ 4 := by decide
/-- An update of no position. -/
theorem witness_SetSegmentsSendsThreeFrames :
    ready.st.initialised = true ∧ 0 ≤ ([] : List Nat).length ∧ ((3 : Int) % 4).toNat + 0 ≤ 4 := by decide
theorem witness_EmittedFramesDecode :
    ready.st.initialised = true ∧ 1 ≤ [0x1FF].length ∧ ((3 : Int) % 4).toNat + 1 ≤ 4 ∧ ready.st.ctrl.getLsbD 3 = true := by
  decide
theorem witness_SetSegmentsCounts :
    ready.st.initialised = true ∧ 4 ≤ [1, 2, 3, 4].length ∧ ((0 : Int) % 4).toNat + 4 ≤ 4 := by decide
theorem witness_SnapshotHoldsTheLastUpdate :
    ready.st.initialised = true ∧ ready.st.retain = true ∧ 2 ≤ [1, 2, 3].length ∧ ((2 : Int) % 4).toNat + 2 ≤ 4 := by decide
theorem witness_UpdateIsItsInternalOperations :
    ready.st.initialised = true ∧ 2 ≤ [1, 2].length ∧ ((-2 : Int) % 4).toNat + 2 ≤ 4 ∧ ready.st.ctrl.getLsbD 3 = true := by
  decide
theorem witness_BrightnessReachesTheNextUpdate :
    readyNoSnap.st.initialised = true ∧ 1 ≤ [1].length ∧ ((7 : Int) % 4).toNat + 1 ≤ 4 := by decide
/-- One set of operands for each of the two reasons. -/
theorem witness_SetSegmentsFaultsOnBadCount :
    ready.st.initialised = true ∧ [1].length < 2 ∧ 4 < ((3 : Int) % 4).toNat + 2 := by decide
theorem witness_AckAnswersChangeNothingElse :
    Instr.clear.hostCallable = true ∧ (nextOf (exec .clear ready)).isSome = true ∧
      (nextOf (exec .clear { ready with rx := nacks 7, draws := 5 })).isSome = true := by decide
theorem witness_SetBrightnessCompletes : readyNoSnap.st.initialised = true := by decide
theorem witness_DisplayStaysEnabled :
    ready.st.ctrl.getLsbD 3 = true ∧ ready.st.initialised = true ∧ (nextOf (exec (.setBrightness 0) ready)).isSome = true ∧
      State.reset.st.initialised = false ∧ lineC ≠ lineD := by decide
theorem witness_ClearIsABlankUpdate :
    State.reset.st.initialised = false ∧ ready.st.initialised = true ∧ ready.st.retain = true := by decide
theorem witness_GetSegmentsReturnsTheSnapshot :
    ready.st.initialised = true ∧ ready.st.retain = true ∧ ready.st.snap = some #v[0x00#8, 0x00#8, 0x00#8, 0x00#8] ∧
      readyNoSnap.st.initialised = true ∧ readyNoSnap.st.retain = false := by decide
theorem witness_DigitToSegmentReadsTheTable :
    (-1 : Int) % 16 = ((15 : Fin 16).val : Int) ∧ (16 : Int) % 16 = ((0 : Fin 16).val : Int) := by decide
/-- Both ends of the domain, and the first value beyond each. -/
theorem witness_DisplayIntegerAcceptsItsDomain :
    ready.st.initialised = true ∧ (-999 ≤ (-999 : Int) ∧ (-999 : Int) ≤ 9999) ∧ (-999 ≤ (9999 : Int) ∧ (9999 : Int) ≤ 9999) ∧
      ¬ (-999 ≤ (-1000 : Int) ∧ (-1000 : Int) ≤ 9999) ∧ ¬ (-999 ≤ (10000 : Int) ∧ (10000 : Int) ≤ 9999) := by decide
/-- The lowest value of each clause is in the
domain and in that clause alone; the patterns at those values are TV-E2's. -/
theorem witness_DisplayIntegerCompletes :
    [1000, 100, 10, 0, -9, -99, -999].all (fun x : Int => decide (-999 ≤ x ∧ x ≤ 9999)) = true ∧
      intPattern defaultSegLut 1000 = [0x06#8, 0x3F#8, 0x3F#8, 0x3F#8] ∧
      intPattern defaultSegLut 100 = [0x00#8, 0x06#8, 0x3F#8, 0x3F#8] ∧
      intPattern defaultSegLut 10 = [0x00#8, 0x00#8, 0x06#8, 0x3F#8] ∧
      intPattern defaultSegLut (-10) = [0x00#8, 0x40#8, 0x06#8, 0x3F#8] ∧
      intPattern defaultSegLut (-100) = [0x40#8, 0x06#8, 0x3F#8, 0x3F#8] := by decide
theorem witness_IntegerPatternSpellsTheDigits :
    -999 ≤ (-10 : Int) ∧ (-10 : Int) ≤ 9999 ∧ -999 ≤ (0 : Int) ∧ (0 : Int) ≤ 9999 := by decide
/-- Both ends of each field, and the first value beyond each. -/
theorem witness_DisplayTimeCompletes :
    ready.st.initialised = true ∧ State.reset.st.initialised = false ∧
      timeAccepted 0 0 = true ∧ timeAccepted 99 99 = true ∧ timeAccepted 100 0 = false ∧ timeAccepted 0 100 = false ∧
      timeAccepted (-1) 0 = false ∧ timeAccepted 0 (-1) = false := by decide
theorem witness_OutcomesOtherThanDoneArePrecise :
    outcomesAfter (exec (.displayTime 100 0) ready) = some (ready.outcomes ++ [.ignored]) ∧
      ∀ r, CallOutcome.ignored ≠ .done r :=
  ⟨by decide, fun _ => nofun⟩
theorem witness_IgnoredChangesNothing :
    outcomesAfter (exec (.displayInteger 10000) ready) = some (ready.outcomes ++ [.ignored]) ∧ ready.st.halt = none := by
  decide
theorem witness_WritersOfEachField :
    (nextOf (exec .getSegments ready)).isSome = true ∧
      (∀ clk dio level delay retain, Instr.getSegments ≠ .init clk dio level delay retain) ∧
      (∀ level, Instr.getSegments ≠ .setBrightness level) ∧ (∀ segments n p, Instr.getSegments ≠ .setSegments segments n p) ∧
      Instr.getSegments ≠ .clear ∧ (∀ x, Instr.getSegments ≠ .displayInteger x) ∧
      (∀ a b, Instr.getSegments ≠ .displayTime a b) :=
  ⟨by decide, fun _ _ _ _ _ => nofun, fun _ => nofun, fun _ _ _ => nofun, nofun, fun _ => nofun, fun _ _ => nofun⟩
theorem witness_HandleIsKeptAfterInit :
    ready.st.initialised = true ∧ (nextOf (step { ready with pending := [.call (.setBrightness 2)] })).isSome = true := by
  decide
theorem witness_TableIsNeverWritten : (nextOf (step State.reset)).isSome = true := by decide
theorem witness_EveryStepKeepsTheInvariant :
    Inv ready ∧ (nextOf (step { ready with pending := [.call .clear] })).isSome = true :=
  ⟨⟨by decide, by decide, by decide, by decide⟩, by decide⟩
theorem witness_HostProgramTraceReadsAsItsFrames :
    HostRun { ready with pending := [.call .clear, .line "getSegments()".toList] } :=
  ⟨by decide, by decide, by decide, by decide⟩
theorem witness_HostProgramStartsIdle : [Request.call .clear, .call (.displayInteger 7)].all Request.isHostCall = true := by
  decide

end Sys2Proof.Tests
end

section
/-!
PROOFS. The scope: a host program starts, right after reset, with both lines released and an empty record that reads as
the empty frame log (00_scope.md R13).
-/

namespace Sys2Proof

/-- A trace with no event leaves the reader at its start (log 14). -/
@[simp] theorem scanTrace_nil : scanTrace [] = Scan.idle := rfl

namespace Machine

/-- Both lines released and nothing recorded is where the run of a host program can begin: the reader has seen no edge. -/
theorem hostRun_of_nothing_recorded {s : State} (calls : s.pending.all Request.isHostCall = true)
    (clkIdle : s.st.clk = .rel) (dioIdle : s.st.dio = .rel) (noTrace : s.trace = []) (noFrames : s.frames = []) :
    HostRun s where
  calls := calls
  clkIdle := clkIdle
  dioIdle := dioIdle
  reads := by
    rw [noTrace, noFrames, scanTrace_nil]
    rfl

/-- Settles O55: reset releases both lines (log 1) and records nothing, and placing requests changes neither. -/
theorem hostProgramStartsIdle : Obligations.HostProgramStartsIdle := by
  intro program calls
  exact hostRun_of_nothing_recorded calls rfl rfl rfl rfl

end Machine

end Sys2Proof
end

section
/-!
PROOFS. The reader of a recorded line trace on what the block sends: a bit cell gives it one bit, an ACK cell the byte
with its answer, and a whole frame exactly its transport events (30_encoding.md R48-R50, R56, R57).
-/

namespace Sys2Proof

/-- The reader inside a frame, the lines as given: each clock pulse of the byte being read has given one of `bits`. -/
def Scan.inByte (clk dio : Drive) (bits : List Bool) (log : List FrameEvent) : Scan :=
  { clk := clk, dio := dio, inFrame := true, pulses := bits.length, bits := bits, log := log }

/-- The bits of a byte, read in the order they are clocked, are the byte (20_memory.md R34). -/
theorem byteOfBits_lsbFirst (b : Byte) : byteOfBits (lsbFirst b) = b := by
  revert b
  decide

/-- START opens a frame: DIO falls while CLK is high, and no bit has been clocked (30_encoding.md R57). -/
theorem scan_startEvents (log : List FrameEvent) :
    startEvents.foldl scanEvent { Scan.idle with log := log } = Scan.inByte .rel .low [] (log ++ [.start]) := by
  simp [startEvents, scanEvent, Scan.idle, Scan.inByte]

/-- A bit cell gives the reader its bit: DIO changes only while CLK is low, which is no START and no STOP, and the rising
edge of CLK reads it (30_encoding.md R48, R57). -/
theorem scan_bitCell (clk dio : Drive) {bits : List Bool} (d : Bool) (log : List FrameEvent) (h : bits.length < 8) :
    (bitCell d).foldl scanEvent (Scan.inByte clk dio bits log) =
      Scan.inByte .rel (if d then .rel else .low) (bits ++ [d]) log := by
  cases d <;> simp [bitCell, scanEvent, Scan.inByte, h]

/-- Bit cells in order give the reader their bits in order. -/
theorem scan_bitCells (clk dio : Drive) (bits more : List Bool) (log : List FrameEvent)
    (h : bits.length + more.length ≤ 8) :
    ∃ clk' dio', (more.flatMap bitCell).foldl scanEvent (Scan.inByte clk dio bits log) =
      Scan.inByte clk' dio' (bits ++ more) log := by
  induction more generalizing clk dio bits with
  | nil => exact ⟨clk, dio, by simp⟩
  | cons d rest ih =>
    rw [List.length_cons] at h
    obtain ⟨clk', dio', hrest⟩ := ih .rel (if d then .rel else .low) (bits ++ [d]) (by simp; omega)
    refine ⟨clk', dio', ?_⟩
    rw [List.flatMap_cons, List.foldl_append, scan_bitCell _ _ _ _ (by omega), hrest, List.append_assoc]
    rfl

/-- The ACK cell ends the byte: the ninth clock pulse carries no data bit, and the SAMPLE in it reads the answer
(30_encoding.md R49, R57). -/
theorem scan_ackCell (clk dio : Drive) {bits : List Bool} (v : Level) (log : List FrameEvent) (h : bits.length = 8) :
    (ackCell v).foldl scanEvent (Scan.inByte clk dio bits log) =
      Scan.inByte .low .rel [] (log ++ [.byte (byteOfBits bits) (decide (v = .low))]) := by
  simp [ackCell, scanEvent, Scan.inByte, h]

/-- A byte reads as one `BYTE` with its answer, and the reader then stands before the next byte (30_encoding.md R50). -/
theorem scan_byteEvents (clk dio : Drive) (b : Byte) (v : Level) (log : List FrameEvent) :
    (byteEvents b v).foldl scanEvent (Scan.inByte clk dio [] log) =
      Scan.inByte .low .rel [] (log ++ [.byte b (decide (v = .low))]) := by
  obtain ⟨clk', dio', hbits⟩ := scan_bitCells clk dio [] (lsbFirst b) log (by simp [lsbFirst])
  rw [byteEvents, List.foldl_append, hbits, scan_ackCell _ _ _ _ (by simp [lsbFirst]), List.nil_append,
    byteOfBits_lsbFirst]

/-- The bytes of a frame read as one `BYTE` each, in order. -/
theorem scan_bytes (clk dio : Drive) (bytes : List (Byte × Level)) (log : List FrameEvent) :
    ∃ clk' dio', (bytes.flatMap fun p => byteEvents p.1 p.2).foldl scanEvent (Scan.inByte clk dio [] log) =
      Scan.inByte clk' dio' [] (log ++ bytes.map fun p => .byte p.1 (decide (p.2 = .low))) := by
  induction bytes generalizing clk dio log with
  | nil => exact ⟨clk, dio, by simp⟩
  | cons p rest ih =>
    obtain ⟨clk', dio', hrest⟩ := ih .low .rel (log ++ [.byte p.1 (decide (p.2 = .low))])
    refine ⟨clk', dio', ?_⟩
    rw [List.flatMap_cons, List.foldl_append, scan_byteEvents, hrest, List.map_cons, List.append_assoc]
    rfl

/-- STOP closes the frame: DIO rises while CLK is high, and the bit its clock pulse gave is dropped (log 14). -/
theorem scan_stopEvents (clk dio : Drive) (log : List FrameEvent) :
    stopEvents.foldl scanEvent (Scan.inByte clk dio [] log) = { Scan.idle with log := log ++ [.stop] } := by
  simp [stopEvents, scanEvent, Scan.idle, Scan.inByte]

/-- A frame reads as exactly its transport events, and leaves the reader idle (30_encoding.md R56, R57). -/
theorem scan_frameLineEvents (bytes : List (Byte × Level)) (log : List FrameEvent) :
    (frameLineEvents bytes).foldl scanEvent { Scan.idle with log := log } =
      { Scan.idle with log := log ++ frameLogEvents bytes } := by
  obtain ⟨clk, dio, hbytes⟩ := scan_bytes .rel .low bytes (log ++ [.start])
  rw [frameLineEvents, List.foldl_append, List.foldl_append, scan_startEvents, hbytes, scan_stopEvents]
  simp [frameLogEvents]

/-- Releasing both lines of an idle reader is no edge: it reads as nothing. -/
theorem scan_releases (log : List FrameEvent) :
    [LineEvent.rel .clk, .rel .dio].foldl scanEvent { Scan.idle with log := log } = { Scan.idle with log := log } := rfl

/-- A trace is read on from where its beginning left the reader. -/
theorem scanTrace_append (t new : List LineEvent) : scanTrace (t ++ new) = new.foldl scanEvent (scanTrace t) :=
  List.foldl_append

end Sys2Proof
end

section
/-!
PROOFS. What one operation, and so one step, keeps: each fact is read off the six forms of the state after an operation
(`exec_next_cases`), and carried to `step` by its inversion lemma (10_state.md R15, R16, R20-R26).
-/

namespace Sys2Proof.Machine

/-- A property that does not ask for the host's requests, and that every operation keeps, is kept by every step. -/
theorem step_keeps {P : State → Prop} (ofRequests : ∀ s rest, P s → P { s with pending := rest })
    (ofExec : ∀ i s t, P s → exec i s = .next t → P t) {s t : State} (hs : P s) (h : step s = .next t) : P t := by
  obtain ⟨_, ⟨_, rfl⟩ | ⟨_, rest, i, _, _, hexec⟩⟩ := step_next_cases h
  · exact hs
  · exact ofExec i _ t (ofRequests s rest hs) hexec

/-! ## The drive states and the trace (10_state.md R26) -/

/-- What the events of a trace give a line, its later events give it from what its earlier ones gave. -/
theorem lastDrive_append (l : Line) (d : Drive) (first second : List LineEvent) :
    lastDrive l d (first ++ second) = lastDrive l (lastDrive l d first) second := by
  induction first generalizing d with
  | nil => rfl
  | cons e rest ih =>
    cases e with
    | drive l' => exact ih _
    | rel l' => exact ih _
    | wait => exact ih _
    | sample v => exact ih _

/-- A byte leaves CLK low, by the events of its ACK cell (40_transport.md R73). -/
theorem lastDrive_clk_byteEvents (d : Drive) (b : Byte) (v : Level) : lastDrive .clk d (byteEvents b v) = .low := by
  rw [byteEvents, lastDrive_append]
  rfl

/-- A byte leaves DIO released, by the events of its ACK cell (40_transport.md R73). -/
theorem lastDrive_dio_byteEvents (d : Drive) (b : Byte) (v : Level) : lastDrive .dio d (byteEvents b v) = .rel := by
  rw [byteEvents, lastDrive_append]
  rfl

/-- A frame leaves both lines released, by the events of its STOP (40_transport.md R71). -/
theorem lastDrive_frameLineEvents (l : Line) (d : Drive) (bytes : List (Byte × Level)) :
    lastDrive l d (frameLineEvents bytes) = .rel := by
  rw [frameLineEvents, lastDrive_append]
  cases l <;> rfl

/-- An update appends the line events and the transport events of three frames (30_encoding.md R58). -/
theorem afterUpdate_appends_frames (payload : List Byte) (p : BitVec 2) (s : State) :
    ∃ f1 f2 f3,
      (afterUpdate payload p s).trace = s.trace ++ frameLineEvents f1 ++ frameLineEvents f2 ++ frameLineEvents f3 ∧
      (afterUpdate payload p s).frames = s.frames ++ frameLogEvents f1 ++ frameLogEvents f2 ++ frameLogEvents f3 :=
  ⟨_, _, _, rfl, rfl⟩

/-- Settles O19: a byte and a frame end in events that fix both lines, and the line operations set the drive states
their events give. -/
theorem driveStatesFollowTheTrace : Obligations.DriveStatesFollowTheTrace := by
  intro i s t h
  cases exec_next_cases h with
  | byte b _ ht =>
    subst ht
    exact ⟨byteEvents b (ackLevel s), rfl, (lastDrive_clk_byteEvents ..).symm, (lastDrive_dio_byteEvents ..).symm⟩
  | line events _ _ _ _ _ ht =>
    subst ht
    exact ⟨events, rfl, rfl, rfl⟩
  | outcome o _ ht =>
    subst ht
    exact ⟨[], (List.append_nil _).symm, rfl, rfl⟩
  | update payload p _ _ ht =>
    subst ht
    obtain ⟨f1, f2, f3, htrace, _⟩ := afterUpdate_appends_frames payload p s
    refine ⟨frameLineEvents f1 ++ frameLineEvents f2 ++ frameLineEvents f3, by simp [htrace], ?_, ?_⟩ <;>
      rw [lastDrive_append, lastDrive_frameLineEvents] <;> rfl
  | brightness level _ _ ht =>
    subst ht
    exact ⟨[], (List.append_nil _).symm, rfl, rfl⟩
  | initialised clk dio level delay retain _ _ _ ht =>
    subst ht
    exact ⟨[.rel .clk, .rel .dio], List.append_assoc _ _ _, rfl, rfl⟩

/-! ## The parameters and the host's requests (10_state.md R25; log 3) -/

/-- No operation writes the parameters. -/
theorem exec_params {i : Instr} {s t : State} (h : exec i s = .next t) : t.params = s.params := by
  cases exec_next_cases h <;> (subst t; rfl)

/-- No operation writes the host's requests. -/
theorem exec_pending {i : Instr} {s t : State} (h : exec i s = .next t) : t.pending = s.pending := by
  cases exec_next_cases h <;> (subst t; rfl)

/-- No step writes the parameters. -/
theorem step_params {s t : State} (h : step s = .next t) : t.params = s.params :=
  step_keeps (P := fun u => u.params = s.params) (fun _ _ hu => hu) (fun _ _ _ hu hexec => (exec_params hexec).trans hu)
    rfl h

/-- Settles O51: the table and the pull-up are the parameters, which no step writes. -/
theorem tableIsNeverWritten : Obligations.TableIsNeverWritten := by
  intro s t h
  rw [step_params h]
  exact ⟨rfl, rfl⟩

/-! ## The handle (10_state.md R15, R16) -/

/-- The fields that only `init` writes are the same: the lines, the bit delay, the retain flag and the mark. -/
structure SameHandle (b c : Block) : Prop where
  clkLine : c.clkLine = b.clkLine
  dioLine : c.dioLine = b.dioLine
  bitDelay : c.bitDelay = b.bitDelay
  retain : c.retain = b.retain
  initialised : c.initialised = b.initialised

theorem SameHandle.refl (b : Block) : SameHandle b b := ⟨rfl, rfl, rfl, rfl, rfl⟩

theorem SameHandle.trans {a b c : Block} (h : SameHandle a b) (k : SameHandle b c) : SameHandle a c where
  clkLine := k.clkLine.trans h.clkLine
  dioLine := k.dioLine.trans h.dioLine
  bitDelay := k.bitDelay.trans h.bitDelay
  retain := k.retain.trans h.retain
  initialised := k.initialised.trans h.initialised

/-- An operation keeps the handle, or it is a completed first `init`. -/
theorem exec_sameHandle_or_init {i : Instr} {s t : State} (h : exec i s = .next t) :
    SameHandle s.st t.st ∨
      ∃ clk dio level delay retain, i = .init clk dio level delay retain ∧ clk ≠ dio ∧ s.st.initialised = false ∧
        t = conclude (.done .unit) (initialise clk dio level delay retain s) := by
  cases exec_next_cases h with
  | byte => subst t; exact .inl ⟨rfl, rfl, rfl, rfl, rfl⟩
  | line => subst t; exact .inl ⟨rfl, rfl, rfl, rfl, rfl⟩
  | outcome => subst t; exact .inl ⟨rfl, rfl, rfl, rfl, rfl⟩
  | update => subst t; exact .inl ⟨rfl, rfl, rfl, rfl, rfl⟩
  | brightness => subst t; exact .inl ⟨rfl, rfl, rfl, rfl, rfl⟩
  | initialised clk dio level delay retain hi hne h0 ht =>
    exact .inr ⟨clk, dio, level, delay, retain, hi, hne, h0, ht⟩

/-- Once `init` has run, every operation keeps the handle (10_state.md R16). -/
theorem exec_sameHandle_of_initialised {i : Instr} {s t : State} (hs : s.st.initialised = true)
    (h : exec i s = .next t) : SameHandle s.st t.st := by
  obtain hsame | ⟨_, _, _, _, _, _, _, h0, _⟩ := exec_sameHandle_or_init h
  · exact hsame
  · simp [hs] at h0

/-- Once `init` has run, every step keeps the handle (10_state.md R16). -/
theorem step_sameHandle_of_initialised {s t : State} (hs : s.st.initialised = true) (h : step s = .next t) :
    SameHandle s.st t.st :=
  step_keeps (P := fun u => SameHandle s.st u.st) (fun _ _ hu => hu)
    (fun _ _ _ hu hexec => hu.trans (exec_sameHandle_of_initialised (hu.initialised.trans hs) hexec))
    (SameHandle.refl s.st) h

/-- Settles O50: the only operation that writes the handle is a first `init`, which needs `st.initialised` false. -/
theorem handleIsKeptAfterInit : Obligations.HandleIsKeptAfterInit := by
  intro s t hs h
  obtain ⟨hclk, hdio, hdelay, hretain, hinit⟩ := step_sameHandle_of_initialised hs h
  exact ⟨hinit.trans hs, hclk, hdio, hdelay, hretain⟩

/-! ## The control register and the snapshot (10_state.md R20-R24) -/

/-- An operation keeps the control register, or it is `setBrightness` or `init` and writes its level. -/
theorem exec_ctrl {i : Instr} {s t : State} (h : exec i s = .next t) :
    t.st.ctrl = s.st.ctrl ∨
      ∃ level, t.st.ctrl = ctrlOfLevel level ∧
        (i = .setBrightness level ∨ ∃ clk dio delay retain, i = .init clk dio level delay retain) := by
  cases exec_next_cases h with
  | byte => subst t; exact .inl rfl
  | line => subst t; exact .inl rfl
  | outcome => subst t; exact .inl rfl
  | update => subst t; exact .inl rfl
  | brightness level hi _ ht => exact .inr ⟨level, by rw [ht]; rfl, .inl hi⟩
  | initialised clk dio level delay retain hi _ _ ht =>
    exact .inr ⟨level, by rw [ht]; rfl, .inr ⟨clk, dio, delay, retain, hi⟩⟩

/-- An operation keeps the snapshot, or it is an update or `init` and leaves one exactly when it is retained. -/
theorem exec_snap {i : Instr} {s t : State} (h : exec i s = .next t) :
    t.st.snap = s.st.snap ∨
      (isUpdate i = true ∨ ∃ clk dio level delay retain, i = .init clk dio level delay retain) ∧
        t.st.snap.isSome = t.st.retain := by
  cases exec_next_cases h with
  | byte => subst t; exact .inl rfl
  | line => subst t; exact .inl rfl
  | outcome => subst t; exact .inl rfl
  | update payload p hu _ ht =>
    subst ht
    cases hr : s.st.retain with
    | false => exact .inl (by simp [afterUpdate, hr])
    | true => exact .inr ⟨.inl hu, by simp [afterUpdate, afterThreeFrames, afterFrame, hr]⟩
  | brightness => subst t; exact .inl rfl
  | initialised clk dio level delay retain hi _ _ ht =>
    subst ht
    exact .inr ⟨.inr ⟨clk, dio, level, delay, retain, hi⟩, by cases retain <;> rfl⟩

/-- Settles O49: the handle, the control register and the snapshot are each kept, or the operation is one that may write
them. -/
theorem writersOfEachField : Obligations.WritersOfEachField := by
  intro i s t h
  refine ⟨fun notInit => ?_, exec_pending h⟩
  have hhandle : SameHandle s.st t.st := by
    obtain hsame | ⟨clk, dio, level, delay, retain, hi, _⟩ := exec_sameHandle_or_init h
    · exact hsame
    · exact absurd hi (notInit _ _ _ _ _)
  refine ⟨hhandle.clkLine, hhandle.dioLine, hhandle.bitDelay, hhandle.retain, hhandle.initialised, ?_, ?_⟩
  · intro notBrightness
    obtain hctrl | ⟨level, _, hi | ⟨clk, dio, delay, retain, hi⟩⟩ := exec_ctrl h
    · exact hctrl
    · exact absurd hi (notBrightness level)
    · exact absurd hi (notInit _ _ _ _ _)
  · intro notSegments notClear notInteger notTime
    obtain hsnap | ⟨hu | ⟨clk, dio, level, delay, retain, hi⟩, _⟩ := exec_snap h
    · exact hsnap
    · cases i with
      | setSegments segments n p => exact absurd rfl (notSegments segments n p)
      | clear => exact absurd rfl notClear
      | displayInteger x => exact absurd rfl (notInteger x)
      | displayTime a b => exact absurd rfl (notTime a b)
      | _ => cases hu
    · exact absurd hi (notInit _ _ _ _ _)

/-- No operation clears the hard-wired bit of the control register (10_state.md R21). -/
theorem exec_enabled {i : Instr} {s t : State} (hs : s.st.ctrl.getLsbD 3 = true) (h : exec i s = .next t) :
    t.st.ctrl.getLsbD 3 = true := by
  obtain hctrl | ⟨level, hctrl, _⟩ := exec_ctrl h
  · rw [hctrl, hs]
  · rw [hctrl, ctrlOfLevel_enabled]

/-- A control register with its hard-wired bit set is in `0x8`..`0xF` (10_state.md R21). -/
theorem eight_le_of_enabled {c : BitVec 4} (h : c.getLsbD 3 = true) : 0x8#4 ≤ c := by
  revert c
  decide

/-- A completed `setBrightness` is one write of the control register (41_command_protocol.md R84). -/
theorem exec_setBrightness {level : Int} {s : State} (hs : s.st.initialised = true) :
    exec (.setBrightness level) s =
      .next (conclude (.done .unit) { s with st := { s.st with ctrl := ctrlOfLevel level } }) :=
  congrArg Host.Outcome.next (requireInit_of_initialised hs)

/-- `setBrightness` uses its level modulo 8 only (10_state.md R21, R22). -/
theorem exec_setBrightness_congr {level level' : Int} (h : level % 8 = level' % 8) (s : State) :
    exec (.setBrightness level) s = exec (.setBrightness level') s := by
  have hctrl : ctrlOfLevel level = ctrlOfLevel level' := by rw [ctrlOfLevel, ctrlOfLevel, levelField, levelField, h]
  simp only [exec, execSetBrightness, hctrl]

/-- A completed first `init` writes what `initialise` says (41_command_protocol.md R87). -/
theorem exec_init {clk dio : LineId} {level : Int} {delay : Nat} {retain : Bool} {s : State}
    (hs : s.st.initialised = false) (hne : clk ≠ dio) :
    exec (.init clk dio level delay retain) s =
      .next (conclude (.done .unit) (initialise clk dio level delay retain s)) := by
  simp [exec, execInit, hs, hne]

/-- Settles O37: every write of the control register is `ctrlOfLevel` of a level, whose bit 3 is set and which depends on
the level modulo 8 only. -/
theorem displayStaysEnabled : Obligations.DisplayStaysEnabled := by
  refine ⟨fun i s t h hs => exec_enabled hs h, ?_, ?_, fun s => exec_setBrightness_congr (by decide) s⟩
  · intro level s hs
    exact ⟨_, exec_setBrightness hs, eight_le_of_enabled (ctrlOfLevel_enabled level)⟩
  · intro clk dio level delay retain s hs hne
    exact ⟨_, exec_init hs hne, eight_le_of_enabled (ctrlOfLevel_enabled level)⟩

/-! ## The invariant (10_state.md R21, R24; 00_scope.md R8; 42_digit_encoding.md R88) -/

/-- A completed first `init` on two lines keeps the invariant: it names the two lines and makes a snapshot exactly when
one is retained. -/
theorem inv_initialise {clk dio : LineId} (hne : clk ≠ dio) (level : Int) (delay : Nat) (retain : Bool) {s : State}
    (hs : Inv s) : Inv (conclude (.done .unit) (initialise clk dio level delay retain s)) where
  enabled := ctrlOfLevel_enabled level
  twoLines := fun _ => hne
  snapshot := by cases retain <;> rfl
  table := hs.table

/-- Every operation keeps the invariant. -/
theorem exec_inv {i : Instr} {s t : State} (hs : Inv s) (h : exec i s = .next t) : Inv t := by
  obtain hsame | ⟨clk, dio, level, delay, retain, _, hne, _, rfl⟩ := exec_sameHandle_or_init h
  · have snapshot : t.st.snap.isSome = t.st.retain := by
      obtain hsnap | ⟨_, hsnap⟩ := exec_snap h
      · rw [hsnap, hsame.retain, hs.snapshot]
      · exact hsnap
    have twoLines : t.st.initialised = true → t.st.clkLine ≠ t.st.dioLine := by
      rw [hsame.initialised, hsame.clkLine, hsame.dioLine]
      exact hs.twoLines
    have table : lutLawful t.params.segLut = true := by
      rw [exec_params h, hs.table]
    exact ⟨exec_enabled hs.enabled h, twoLines, snapshot, table⟩
  · exact inv_initialise hne level delay retain hs

/-- Settles O52: an operation keeps each part of the invariant, and taking a request touches none of them. -/
theorem everyStepKeepsTheInvariant : Obligations.EveryStepKeepsTheInvariant := by
  intro s t hs h
  exact step_keeps (fun _ _ hu => ⟨hu.enabled, hu.twoLines, hu.snapshot, hu.table⟩) (fun _ _ _ hu => exec_inv hu) hs h

/-! ## The step and the levels of the lines (10_state.md R18, R27) -/

/-- Settles O6: the first part is `step` on a placed request; placing a wire byte and taking it leaves the state as it
was. -/
theorem stepRunsTheDecodedRequest : Obligations.StepRunsTheDecodedRequest := by
  refine ⟨fun s r rest i hs hp hd => step_of_request hs hp hd, fun s nbits w i hs hw => ?_⟩
  obtain ⟨r, hplaced, hd⟩ := placeWireByte_pending hw s
  rw [State.withFetchWord, hplaced]
  exact step_of_request hs rfl hd

/-- A line driven low is low, whatever the receiver does and with or without a pull-up (10_state.md R27). -/
@[simp] theorem dioLevel_low (pullup : Bool) (x : Draw) : dioLevel pullup .low x = .low := if_pos (.inl rfl)

/-- With the pull-up a released DIO is low exactly when the receiver pulls it (10_state.md R27). -/
theorem dioLevel_released (x : Draw) : dioLevel true .rel x = if x.pullDIO then .low else .high := by
  simp [dioLevel]

/-- Settles O13: a driven line is low, and a released one is left to the pull-up and, for DIO, the receiver. -/
theorem lineLevelsAreWiredAnd : Obligations.LineLevelsAreWiredAnd := by
  refine ⟨fun _ _ => rfl, fun _ => rfl, dioLevel_low, fun x => ?_⟩
  rw [dioLevel_released]
  cases x.pullDIO <;> simp

end Sys2Proof.Machine
end

section
/-!
PROOFS. The run of a host program: its public operations release both lines and leave a trace that reads as exactly the
frame log, with no frame open (10_state.md R29, 30_encoding.md R57, 00_scope.md R13).
-/

namespace Sys2Proof.Machine

/-- The recorded trace reads as exactly the frame log, and no frame is left open. -/
def ReadsAsFrames (trace : List LineEvent) (frames : List FrameEvent) : Prop :=
  scanTrace trace = { Scan.idle with log := frames }

/-- A frame appended to both records is read as it was logged. -/
theorem ReadsAsFrames.append_frame {trace : List LineEvent} {frames : List FrameEvent} (h : ReadsAsFrames trace frames)
    (bytes : List (Byte × Level)) : ReadsAsFrames (trace ++ frameLineEvents bytes) (frames ++ frameLogEvents bytes) := by
  rw [ReadsAsFrames, scanTrace_append, h, scan_frameLineEvents]

/-- The releases of `init` are read as nothing: the lines are released already. -/
theorem ReadsAsFrames.append_releases {trace : List LineEvent} {frames : List FrameEvent}
    (h : ReadsAsFrames trace frames) : ReadsAsFrames (trace ++ [.rel .clk, .rel .dio]) frames := by
  rw [ReadsAsFrames, scanTrace_append, h, scan_releases]

/-- An update is three whole frames, so its trace reads as what it logged. -/
theorem readsAsFrames_afterUpdate {s : State} (h : ReadsAsFrames s.trace s.frames) (payload : List Byte) (p : BitVec 2) :
    ReadsAsFrames (afterUpdate payload p s).trace (afterUpdate payload p s).frames := by
  obtain ⟨f1, f2, f3, htrace, hframes⟩ := afterUpdate_appends_frames payload p s
  rw [htrace, hframes]
  exact ((h.append_frame f1).append_frame f2).append_frame f3

/-- Every public operation keeps what holds of the run of a host program. -/
theorem exec_hostRun {i : Instr} {s t : State} (hi : i.hostCallable = true) (hs : HostRun s)
    (h : exec i s = .next t) : HostRun t := by
  have calls : t.pending.all Request.isHostCall = true := by rw [exec_pending h, hs.calls]
  cases exec_next_cases h with
  | byte b hinternal => simp [hi] at hinternal
  | line events log r rx draws hinternal => simp [hi] at hinternal
  | outcome o _ ht =>
    subst ht
    exact ⟨calls, hs.clkIdle, hs.dioIdle, hs.reads⟩
  | update payload p _ _ ht =>
    subst ht
    exact ⟨calls, rfl, rfl, readsAsFrames_afterUpdate hs.reads payload p⟩
  | brightness level _ _ ht =>
    subst ht
    exact ⟨calls, hs.clkIdle, hs.dioIdle, hs.reads⟩
  | initialised clk dio level delay retain _ _ _ ht =>
    subst ht
    have reads := ReadsAsFrames.append_releases hs.reads
    rw [List.append_cons] at reads
    exact ⟨calls, rfl, rfl, reads⟩

/-- Settles O54: a step is idle, or it takes a request for a public operation and runs it. -/
theorem hostProgramTraceReadsAsItsFrames : Obligations.HostProgramTraceReadsAsItsFrames := by
  intro s t hs h
  obtain ⟨_, ⟨_, rfl⟩ | ⟨r, rest, i, hp, hd, hexec⟩⟩ := step_next_cases h
  · exact hs
  · have calls := hs.calls
    rw [hp, List.all_cons, Bool.and_eq_true] at calls
    obtain ⟨hr, hrest⟩ := calls
    have hi : i.hostCallable = true := by simpa [Request.isHostCall, hd] using hr
    have taken : HostRun { s with pending := rest } := ⟨hrest, hs.clkIdle, hs.dioIdle, hs.reads⟩
    exact exec_hostRun hi taken hexec

end Sys2Proof.Machine
end

section
/-!
PROOFS. The wire bytes and the frames (30_encoding.md R51-R59): which bytes a decoder accepts as the first of a frame,
and the frames and their bytes, each from the other.
-/

namespace Sys2Proof

/-! ## Command bytes (30_encoding.md R51-R53, R59) -/

theorem decodeCommand_addressByte (aa : BitVec 2) : decodeCommand (addressByte aa) = .ok (.addrSet aa) := by
  revert aa
  decide

theorem decodeCommand_controlByte (lll : BitVec 3) :
    decodeCommand (controlByte (enabledNibble lll)) = .ok (.displayCtrl lll) := by
  revert lll
  decide

/-- A byte that meets the mask of ADDR_SET is the address byte of its low two bits (30_encoding.md R52). -/
theorem addressByte_extractLsb' {b : Byte} (h : b &&& 0xFC#8 = 0xC0#8) : addressByte (b.extractLsb' 0 2) = b := by
  revert b
  decide

/-- A byte that meets the mask of DISPLAY_CTRL is the control byte of its low three bits (30_encoding.md R53). -/
theorem controlByte_extractLsb' {b : Byte} (h : b &&& 0xF8#8 = 0x88#8) :
    controlByte (enabledNibble (b.extractLsb' 0 3)) = b := by
  revert b
  decide

/-- The first bytes of frames: one for each instruction of the three command rows, and no other (30_encoding.md R59). -/
theorem decodeCommand_eq_ok_iff {b : Byte} {i : Instr} :
    decodeCommand b = .ok i ↔
      (b = Machine.dataWriteByte ∧ i = .dataWrite) ∨ (∃ aa, b = addressByte aa ∧ i = .addrSet aa) ∨
        (∃ lll, b = controlByte (enabledNibble lll) ∧ i = .displayCtrl lll) := by
  constructor
  · intro h
    unfold decodeCommand at h
    split at h
    · next hb => cases h; exact .inl ⟨hb, rfl⟩
    · split at h
      · next hb => cases h; exact .inr (.inl ⟨_, (addressByte_extractLsb' hb).symm, rfl⟩)
      · split at h
        · next hb => cases h; exact .inr (.inr ⟨_, (controlByte_extractLsb' hb).symm, rfl⟩)
        · cases h
  · rintro (⟨rfl, rfl⟩ | ⟨aa, rfl, rfl⟩ | ⟨lll, rfl, rfl⟩)
    · rfl
    · exact decodeCommand_addressByte aa
    · exact decodeCommand_controlByte lll

/-- The address bytes are `0xC0`..`0xC3` (30_encoding.md R52). -/
theorem exists_addressByte_iff (b : Byte) : (∃ aa, b = addressByte aa) ↔ 0xC0#8 ≤ b ∧ b ≤ 0xC3#8 := by
  revert b
  decide

/-- The control bytes are `0x88`..`0x8F` (30_encoding.md R53). -/
theorem exists_controlByte_iff (b : Byte) :
    (∃ lll, b = controlByte (enabledNibble lll)) ↔ 0x88#8 ≤ b ∧ b ≤ 0x8F#8 := by
  revert b
  decide

/-- Settles O3: the first bytes of frames are the bytes of the three command rows. -/
theorem onlyCommandBytesStartAFrame : Obligations.OnlyCommandBytesStartAFrame := by
  intro b
  rw [← exists_addressByte_iff, ← exists_controlByte_iff]
  simp [decode, decodeCommand_eq_ok_iff, exists_or, Machine.dataWriteByte]

/-- A wire byte in its place in a frame decodes to its instruction (30_encoding.md R51-R54). -/
theorem decode_encode_of_isWireByte {i : Instr} (h : i.isWireByte = true) : decode (encode i) = .ok i := by
  cases i
  case dataWrite => rfl
  case addrSet aa => exact decodeCommand_addressByte aa
  case displayCtrl lll => exact decodeCommand_controlByte lll
  case segmentData b => rfl
  all_goals cases h

/-! ## Frames (30_encoding.md R56) -/

/-- The bytes of a well-formed frame decode to it. -/
theorem decodeFrame_encodeFrame {f : WireFrame} (h : f.wf = true) : decodeFrame (encodeFrame f) = .ok f := by
  cases f with
  | dataWrite => rfl
  | address aa payload =>
    have fits : aa.toNat + payload.length ≤ 4 := by simpa [WireFrame.wf] using h
    simp [encodeFrame, decodeFrame, decodeCommand_addressByte, fits]
  | control lll => simp [encodeFrame, decodeFrame, decodeCommand_controlByte]

/-- What decodes to a frame is the bytes of that frame, and the frame is well formed. -/
theorem encodeFrame_of_decodeFrame {bytes : List Byte} {f : WireFrame} (h : decodeFrame bytes = .ok f) :
    f.wf = true ∧ encodeFrame f = bytes := by
  cases bytes with
  | nil => cases h
  | cons b rest =>
    cases hb : decodeCommand b with
    | error e => simp [decodeFrame, hb] at h
    | ok i =>
      obtain ⟨rfl, rfl⟩ | ⟨aa, rfl, rfl⟩ | ⟨lll, rfl, rfl⟩ := decodeCommand_eq_ok_iff.mp hb
      · obtain ⟨rfl, rfl⟩ : rest = [] ∧ .dataWrite = f := by simpa [decodeFrame, hb, ite_eq_iff] using h
        exact ⟨rfl, rfl⟩
      · obtain ⟨fits, rfl⟩ : aa.toNat + rest.length ≤ 4 ∧ .address aa rest = f := by
          simpa [decodeFrame, hb, ite_eq_iff] using h
        exact ⟨by simpa [WireFrame.wf] using fits, rfl⟩
      · obtain ⟨rfl, rfl⟩ : rest = [] ∧ .control lll = f := by simpa [decodeFrame, hb, ite_eq_iff] using h
        exact ⟨rfl, rfl⟩

/-- Settles O4: the command byte fixes the format of a frame, and the bytes after it are its payload. -/
theorem frameBytesRoundTrip : Obligations.FrameBytesRoundTrip :=
  ⟨fun _ h => decodeFrame_encodeFrame h, fun _ _ h => encodeFrame_of_decodeFrame h⟩

/-- Settles O5: read from the idle reader with an empty log, a frame leaves exactly its transport events. -/
theorem frameTraceReadsBack : Obligations.FrameTraceReadsBack := fun bytes => scan_frameLineEvents bytes []

/-- Settles O1: each word meets the mask of one row, and the line is the call of its operation. -/
theorem specWordsDecode : Obligations.SpecWordsDecode := by
  refine ⟨?_, ?_, ?_, ?_, ?_, ?_, rfl, rfl, ?_⟩ <;> decide

end Sys2Proof
end

section
/-!
PROOFS. Calls read back as they are written (30_encoding.md R61): a call gives its tokens, its tokens give its arguments,
and its name and arguments give its instruction.
-/

namespace Sys2Proof

/-! ## Text to tokens -/

/-- A text gives these tokens wherever a punctuation character follows it, as one follows every part of a call. -/
def Tokenizes (text : List Char) (tokens : List Token) : Prop :=
  ∀ (c : Char) (t : Token) (rest : List Char) (ts : List Token), punctuation c = some t → tokensFrom [] rest = .ok ts →
    tokensFrom [] (text ++ c :: rest) = .ok (tokens ++ t :: ts)

/-- A word as a call may hold one. -/
def IsWord (w : List Char) : Prop := w ≠ [] ∧ ∀ c ∈ w, wordChar c = true

/-- A punctuation character is no part of a word, no comment and no blank. -/
theorem plain_of_punctuation {c : Char} {t : Token} (h : punctuation c = some t) :
    wordChar c = false ∧ c ≠ ';' ∧ c ≠ ' ' ∧ c ≠ '\t' := by
  unfold punctuation at h
  split_ifs at h <;> subst c <;> decide

/-- A punctuation character is a token after the word before it. -/
theorem tokensFrom_of_punctuation {w rest : List Char} {c : Char} {t : Token} {ts : List Token}
    (hp : punctuation c = some t) (h : tokensFrom [] rest = .ok ts) :
    tokensFrom w (c :: rest) = .ok (flushWord w (t :: ts)) := by
  obtain ⟨hw, hs, hb, ht⟩ := plain_of_punctuation hp
  exact tokensFrom_punctuation hw hs hb ht hp h

theorem tokenizes_nil : Tokenizes [] [] := fun _ _ _ _ hp h => tokensFrom_of_punctuation hp h

theorem tokenizes_word {w : List Char} (hw : IsWord w) : Tokenizes w [.word w] := by
  intro c t rest ts hp h
  obtain ⟨hne, hchars⟩ := hw
  rw [tokensFrom_word _ _ _ hchars, List.nil_append, tokensFrom_of_punctuation hp h, flushWord, if_neg hne]
  rfl

/-- Two texts with a punctuation character between them give the tokens of both with its token between them. -/
theorem Tokenizes.punctuated {text text' : List Char} {tokens tokens' : List Token} {c : Char} {t : Token}
    (h : Tokenizes text tokens) (hp : punctuation c = some t) (h' : Tokenizes text' tokens') :
    Tokenizes (text ++ c :: text') (tokens ++ t :: tokens') := by
  intro d u rest ts hd hrest
  simpa using h c t _ _ hp (h' d u rest ts hd hrest)

/-- The blank before an argument gives no token (log 10). -/
theorem Tokenizes.blank {text : List Char} {tokens : List Token} (h : Tokenizes text tokens) :
    Tokenizes (' ' :: text) tokens := by
  intro c t rest ts hp hrest
  have blank : wordChar ' ' = false := by decide
  simp [tokensFrom, blank, h c t rest ts hp hrest, flushWord]

/-- Texts with commas between them give the tokens of each with comma tokens between them. -/
theorem tokenizes_commaSeparated {α : Type} (text : α → List Char) (tokens : α → List Token) (xs : List α)
    (h : ∀ x ∈ xs, Tokenizes (text x) (tokens x)) :
    Tokenizes (commaSeparated (xs.map text)) ([Token.comma].intercalate (xs.map tokens)) := by
  induction xs with
  | nil => exact tokenizes_nil
  | cons x rest ih =>
    cases rest with
    | nil => simpa [commaSeparated] using h
    | cons y rest =>
      have hx : Tokenizes (text x) (tokens x) := h x (by simp)
      have hrest := ih fun z hz => h z (List.mem_cons_of_mem x hz)
      simpa [commaSeparated] using hx.punctuated (c := ',') rfl hrest.blank

theorem isWord_natText (n : Nat) : IsWord (natText n) := ⟨natText_ne_nil n, natText_wordChar n⟩

/-- An argument as it is written. -/
def Arg.text : Arg → List Char
  | .word w => w
  | .negative w => '-' :: w
  | .list xs => natsText xs

/-- The tokens of an argument. -/
def Arg.tokens : Arg → List Token
  | .word w => [.word w]
  | .negative w => [.minus, .word w]
  | .list xs => .lbrack :: [Token.comma].intercalate (xs.map fun n => [.word (natText n)]) ++ [.rbrack]

/-- An argument that can be written: its word is one. -/
def Arg.IsWritable : Arg → Prop
  | .word w | .negative w => IsWord w
  | .list _ => True

theorem Arg.tokenizes {a : Arg} (h : a.IsWritable) : Tokenizes a.text a.tokens := by
  cases a with
  | word w => exact tokenizes_word h
  | negative w => exact tokenizes_nil.punctuated (c := '-') rfl (tokenizes_word h)
  | list xs =>
    have items := tokenizes_commaSeparated natText (fun n => [.word (natText n)]) xs
      fun n _ => tokenizes_word (isWord_natText n)
    have closed := items.punctuated (c := ']') rfl tokenizes_nil
    exact tokenizes_nil.punctuated (c := '[') rfl closed

/-- A written call gives its name, and the tokens of its arguments in parentheses. -/
theorem tokensFrom_callText {name : List Char} {args : List Arg} (hname : IsWord name)
    (hargs : ∀ a ∈ args, a.IsWritable) :
    tokensFrom [] (callText name (args.map Arg.text)) =
      .ok (.word name :: .lparen :: ([Token.comma].intercalate (args.map Arg.tokens) ++ [.rparen])) := by
  have list := tokenizes_commaSeparated Arg.text Arg.tokens args fun a ha => a.tokenizes (hargs a ha)
  have closed := list ')' .rparen [] [] rfl rfl
  have opened := tokenizes_word hname '(' .lparen _ _ rfl closed
  simpa [callText] using opened

/-! ## Tokens to arguments -/

/-- The numbers in brackets are read one after another, up to the closing bracket. -/
theorem readArgTokens_items {mode : ArgMode} (hmode : mode = .listFirst ∨ mode = .listItem) (args : List Arg)
    (items : List Nat) (n : Nat) (ns : List Nat) (ts : List Token) :
    readArgTokens { mode := mode, args := args, items := items }
        ([Token.comma].intercalate ((n :: ns).map fun n => [.word (natText n)]) ++ .rbrack :: ts) =
      readArgTokens { mode := .after, args := args ++ [.list (items ++ n :: ns)], items := [] } ts := by
  induction ns generalizing mode items n with
  | nil => obtain rfl | rfl := hmode <;> simp [readArgTokens, readArgToken, readNat_natText]
  | cons m ms ih =>
    have rest := ih (.inr rfl) (items ++ [n]) m
    rw [List.append_assoc] at rest
    obtain rfl | rfl := hmode <;> simpa [readArgTokens, readArgToken, readNat_natText] using rest

/-- An argument is read where one may stand, and a comma or the closing parenthesis may follow it. -/
theorem readArgTokens_arg {mode : ArgMode} (hmode : mode = .first ∨ mode = .arg) (args : List Arg) (a : Arg)
    (ts : List Token) :
    readArgTokens { mode := mode, args := args, items := [] } (a.tokens ++ ts) =
      readArgTokens { mode := .after, args := args ++ [a], items := [] } ts := by
  cases a with
  | word w => obtain rfl | rfl := hmode <;> rfl
  | negative w => obtain rfl | rfl := hmode <;> rfl
  | list xs =>
    cases xs with
    | nil => obtain rfl | rfl := hmode <;> rfl
    | cons n ns =>
      have items := readArgTokens_items (.inl rfl) args [] n ns ts
      obtain rfl | rfl := hmode <;> simpa [Arg.tokens, readArgTokens, readArgToken] using items

/-- Arguments with commas between them are read one after another, up to the closing parenthesis. -/
theorem readArgTokens_args {mode : ArgMode} (hmode : mode = .first ∨ mode = .arg) (args : List Arg) (a : Arg)
    (rest : List Arg) :
    readArgTokens { mode := mode, args := args, items := [] }
        ([Token.comma].intercalate ((a :: rest).map Arg.tokens) ++ [.rparen]) = some (args ++ a :: rest) := by
  induction rest generalizing mode args a with
  | nil =>
    have last := readArgTokens_arg hmode args a [.rparen]
    simpa [readArgTokens, readArgToken] using last
  | cons b rest ih =>
    have more := ih (.inr rfl) (args ++ [a]) b
    rw [List.append_assoc] at more
    rw [List.map_cons, List.map_cons, List.intercalate_cons_cons, List.append_assoc, List.append_assoc,
      readArgTokens_arg hmode]
    simpa [readArgTokens, readArgToken] using more

/-- The tokens of an argument list give its arguments. -/
theorem readArgTokens_intercalate (args : List Arg) :
    readArgTokens { mode := .first, args := [], items := [] }
        ([Token.comma].intercalate (args.map Arg.tokens) ++ [.rparen]) = some args := by
  cases args with
  | nil => rfl
  | cons a rest => exact readArgTokens_args (.inl rfl) [] a rest

/-- A written call is read as the call of its name with its arguments (30_encoding.md R61). -/
theorem decodeLine_callText {name : List Char} {args : List Arg} (hname : IsWord name)
    (hargs : ∀ a ∈ args, a.IsWritable) :
    decodeLine (callText name (args.map Arg.text)) = readCall name args := by
  simp only [decodeLine, tokensFrom_callText hname hargs, readArgTokens_intercalate]

/-! ## Arguments to operands -/

/-- A natural number as an argument. -/
def Arg.ofNat (n : Nat) : Arg := .word (natText n)

/-- An integer as an argument. -/
def Arg.ofInt : Int → Arg
  | .ofNat n => .word (natText n)
  | .negSucc n => .negative (natText (n + 1))

@[simp] theorem Arg.nat_ofNat (n : Nat) : (Arg.ofNat n).nat = some n := readNat_natText n

@[simp] theorem Arg.int_ofInt (x : Int) : (Arg.ofInt x).int = some x := by
  cases x with
  | ofNat n => simp [Arg.ofInt, Arg.int, readNat_natText]
  | negSucc n => simp [Arg.ofInt, Arg.int, readNat_natText, Int.negSucc_eq]

@[simp] theorem Arg.lineId_word (w : List Char) : (Arg.word w).lineId = some ⟨w⟩ := rfl

@[simp] theorem Arg.nats_list (xs : List Nat) : (Arg.list xs).nats = some xs := rfl

@[simp] theorem Arg.bool_boolText (b : Bool) : (Arg.word (boolText b)).bool = some b := by cases b <;> rfl

@[simp] theorem Arg.bit_word (d : Bool) : (Arg.word [if d then '1' else '0']).bit = some d := by cases d <;> rfl

@[simp] theorem Arg.wire_wireText (l : Line) : (Arg.word (wireText l)).wire = some l := by cases l <;> rfl

@[simp] theorem Arg.text_word (w : List Char) : (Arg.word w).text = w := rfl

@[simp] theorem Arg.text_list (xs : List Nat) : (Arg.list xs).text = natsText xs := rfl

@[simp] theorem Arg.text_ofNat (n : Nat) : (Arg.ofNat n).text = natText n := rfl

@[simp] theorem Arg.text_ofInt (x : Int) : (Arg.ofInt x).text = intText x := by cases x <;> rfl

@[simp] theorem Arg.isWritable_word (w : List Char) : (Arg.word w).IsWritable ↔ IsWord w := Iff.rfl

@[simp] theorem Arg.isWritable_list (xs : List Nat) : (Arg.list xs).IsWritable := trivial

@[simp] theorem Arg.isWritable_ofNat (n : Nat) : (Arg.ofNat n).IsWritable := isWord_natText n

@[simp] theorem Arg.isWritable_ofInt (x : Int) : (Arg.ofInt x).IsWritable := by
  cases x <;> exact isWord_natText _

/-- A line identifier is well formed exactly when its name is a word. -/
theorem LineId.wf_iff {l : LineId} : l.wf = true ↔ IsWord l.name := by
  simp [LineId.wf, IsWord]

@[simp] theorem isWord_boolText (b : Bool) : IsWord (boolText b) := by
  cases b <;> exact LineId.wf_iff.mp rfl

@[simp] theorem isWord_wireText (l : Line) : IsWord (wireText l) := by
  cases l <;> exact LineId.wf_iff.mp rfl

@[simp] theorem isWord_bit (d : Bool) : IsWord [if d then '1' else '0'] := by
  cases d <;> exact LineId.wf_iff.mp rfl

theorem isWord_mnemonic (i : Instr) : IsWord (mnemonic i) := by
  cases i <;> exact LineId.wf_iff.mp rfl

/-! ## Instructions -/

/-- The arguments of an instruction's call, every one written (30_encoding.md R61); a wire byte has no call. -/
def callArgs : Instr → List Arg
  | .dataWrite | .addrSet _ | .displayCtrl _ | .segmentData _ => []
  | .wait | .start | .stop | .clear | .getSegments => []
  | .drive l | .release l => [.word (wireText l)]
  | .setData d => [.word [if d then '1' else '0']]
  | .sample => [.word (wireText .dio)]
  | .sendByte b => [.ofNat b]
  | .init clk dio level delay retain =>
    [.word clk.name, .word dio.name, .ofInt level, .ofNat delay, .word (boolText retain)]
  | .setSegments segments n p => [.list segments, .ofNat n, .ofInt p]
  | .setBrightness x | .digitToSegment x | .displayInteger x => [.ofInt x]
  | .displayTime a b => [.ofInt a, .ofInt b]

/-- The arguments of a well-formed instruction can be written: only the names of two lines might be no words. -/
theorem callArgs_isWritable {i : Instr} (h : i.wf = true) : ∀ a ∈ callArgs i, a.IsWritable := by
  cases i
  case init clk dio level delay retain =>
    obtain ⟨hclk, hdio⟩ : clk.wf = true ∧ dio.wf = true := by simpa [Instr.wf] using h
    simp [callArgs, LineId.wf_iff.mp hclk, LineId.wf_iff.mp hdio]
  all_goals simp [callArgs]

/-- Every instruction but a wire byte is encoded as the call of its mnemonic with its arguments. -/
theorem encode_of_not_isWireByte {i : Instr} (h : i.isWireByte = false) :
    encode i = .line (callText (mnemonic i) ((callArgs i).map Arg.text)) := by
  cases i
  case dataWrite | addrSet | displayCtrl | segmentData => cases h
  all_goals simp [encode, mnemonic, callArgs]

/-- A name of the table is called by its own reader. -/
theorem readCall_of_lookup {name : List Char} {read : List Arg → Option Instr} {args : List Arg} {i : Instr}
    (hname : callTable.lookup name = some read) (hargs : read args = some i) : readCall name args = .ok i := by
  simp [readCall, hname, hargs]

/-- The call of an operation's mnemonic with its arguments is that operation. -/
theorem readCall_callArgs {i : Instr} (h : i.isWireByte = false) : readCall (mnemonic i) (callArgs i) = .ok i := by
  cases i
  case dataWrite | addrSet | displayCtrl | segmentData => cases h
  all_goals
    exact readCall_of_lookup rfl (by simp [callArgs, readNone, readInt, readInit, readSetSegments])

/-- Settles O2: a wire byte meets the mask of its own row alone, and a call is read back in three layers, its tokens,
its arguments and its operands. -/
theorem decodeEncodeRoundTrip : Obligations.DecodeEncodeRoundTrip := by
  intro i hwf
  cases hwire : i.isWireByte with
  | true => exact decode_encode_of_isWireByte hwire
  | false =>
    rw [encode_of_not_isWireByte hwire, decode, decodeLine_callText (isWord_mnemonic i) (callArgs_isWritable hwf),
      readCall_callArgs hwire]

end Sys2Proof
end

section
/-!
PROOFS. What the block sends, in the encodings of 30_encoding.md: the four wire bytes sent by themselves, and the three
frames of a completed `setSegments` (R51-R54, R56, R58); and the steps that run no operation.
-/

namespace Sys2Proof.Machine

/-! ## Steps without an operation (10_state.md R18; logs 3, 10) -/

/-- A running machine with no request placed is idle. -/
theorem step_of_no_request {s : State} (hs : s.running) (hp : s.pending = []) : step s = .next s := by
  simp [step, hs, takeRequest, hp]

/-- A request that stands for no operation is refused by the decoder's reason. -/
theorem step_of_undecodable {s : State} {r : Request} {rest : List Request} {e : DecodeError} (hs : s.running)
    (hp : s.pending = r :: rest) (hd : decode r = .error e) : step s = .refused (.undecodable e) := by
  simp [step, hs, takeRequest, hp, hd]

/-- Settles O7: the two cases of `step` where the oldest request gives no operation. -/
theorem stepWithoutAnOperation : Obligations.StepWithoutAnOperation :=
  ⟨fun _ hs hp => step_of_no_request hs hp, fun _ _ _ _ hs hp hd => step_of_undecodable hs hp hd⟩

/-! ## Wire bytes sent by themselves (30_encoding.md R51-R54; log 5) -/

/-- The address byte is `110000aa` (30_encoding.md R52). -/
theorem addressByte_eq_append (aa : BitVec 2) : addressByte aa = 0b110000#6 ++ aa := by
  revert aa
  decide

/-- The control byte of an enabled display is `10001lll` (30_encoding.md R53). -/
theorem controlByte_enabledNibble_eq_append (lll : BitVec 3) :
    controlByte (enabledNibble lll) = 0b10001#5 ++ lll := by
  revert lll
  decide

/-- Settles O17: each row sends its byte as `sendByte` does, and the bytes are the rows' bit patterns. -/
theorem wireBytesComplete : Obligations.WireBytesComplete := by
  intro s
  refine ⟨?_, fun aa => ?_, fun lll => ?_, fun b => ?_⟩
  · exact congrArg Host.Outcome.next (sendByte_conclude dataWriteByte s)
  · rw [← addressByte_eq_append]
    exact congrArg Host.Outcome.next (sendByte_conclude (addressByte aa) s)
  · rw [← controlByte_enabledNibble_eq_append]
    exact congrArg Host.Outcome.next (sendByte_conclude (controlByte (enabledNibble lll)) s)
  · exact congrArg Host.Outcome.next (sendByte_conclude b s)

/-! ## The frames of an update (30_encoding.md R56, R58) -/

/-- An initialised `setSegments` whose count fits ends as an update (41_command_protocol.md R79). -/
theorem exec_setSegments {segments : List Nat} {n : Nat} {p : Int} {s : State} (hs : s.st.initialised = true)
    (hn : n ≤ segments.length) (hp : (p % 4).toNat + n ≤ 4) :
    exec (.setSegments segments n p) s =
      .next (afterUpdate ((segments.take n).map (BitVec.ofNat 8)) (positionField p) s) := by
  have hb : badDigitCount (segments.map zext8) n p = false := badDigitCount_eq_false.mpr ⟨by simpa using hn, hp⟩
  rw [exec, execSetSegments, setSegmentsOp_eq hs hb, ← List.map_take]
  rfl

/-- The answers to a frame's bytes leave its bytes as they are. -/
@[simp] theorem map_fst_answered (bytes : List Byte) (s : State) : (answered bytes s).map Prod.fst = bytes :=
  List.map_fst_zip (by simp)

/-- What an update adds to the frame log is three whole frames: `0x40`, the address byte with the payload, the control
byte (30_encoding.md R58). -/
theorem afterUpdate_frames (payload : List Byte) (p : BitVec 2) (s : State) :
    ∃ sent : List (List (Byte × Level)),
      (afterUpdate payload p s).frames = s.frames ++ sent.flatMap frameLogEvents ∧
      sent.map (List.map Prod.fst) =
        [encodeFrame .dataWrite, encodeFrame (.address p payload), [controlByte s.st.ctrl]] := by
  let s1 := afterFrame [0x40#8] s
  let s2 := afterFrame (addressByte p :: payload) s1
  refine ⟨[answered [0x40#8] s, answered (addressByte p :: payload) s1, answered [controlByte s.st.ctrl] s2],
    ?_, ?_⟩
  · simp [controlByte_eq, s1, s2, afterUpdate, afterThreeFrames, afterFrame, addressByte]
  · simp [encodeFrame, dataWriteByte]

/-- The address byte of a position is `0xC0` with the position in its low bits (30_encoding.md R52). -/
theorem addressByte_positionField (p : Int) :
    addressByte (positionField p) = 0xC0#8 ||| BitVec.ofNat 8 (p % 4).toNat := by
  have all : ∀ n < 4, addressByte (BitVec.ofNat 2 n) = 0xC0#8 ||| BitVec.ofNat 8 n := by decide
  exact all _ (by omega)

/-- Settles O29: a completed update logs its three frames and nothing else. -/
theorem setSegmentsSendsThreeFrames : Obligations.SetSegmentsSendsThreeFrames := by
  intro segments n p s hs hn hp
  obtain ⟨sent, hframes, hbytes⟩ :=
    afterUpdate_frames ((segments.take n).map (BitVec.ofNat 8)) (positionField p) s
  refine ⟨_, sent, exec_setSegments hs hn hp, hframes, ?_⟩
  rw [hbytes, encodeFrame, encodeFrame, addressByte_positionField, controlByte_eq]
  rfl

/-- The events of a frame are read as its bytes, and what follows is read on from there (30_encoding.md R56). -/
theorem framesOfLog_bytes (bytes : List (Byte × Level)) (rest : List FrameEvent) (before : List Byte) :
    framesOfLog (bytes.map (fun p => .byte p.1 (decide (p.2 = .low))) ++ .stop :: rest) before =
      (before ++ bytes.map Prod.fst) :: framesOfLog rest [] := by
  induction bytes generalizing before with
  | nil => simp [framesOfLog]
  | cons p more ih => simp [framesOfLog, ih]

/-- A log of whole frames is split into exactly their bytes (30_encoding.md R56). -/
theorem framesOfLog_flatMap_frameLogEvents (sent : List (List (Byte × Level))) :
    framesOfLog (sent.flatMap frameLogEvents) [] = sent.map (List.map Prod.fst) := by
  induction sent with
  | nil => rfl
  | cons bytes rest ih => simp [frameLogEvents, framesOfLog, framesOfLog_bytes, ih]

/-- A control register whose hard-wired bit is set is that bit with its level (10_state.md R20). -/
theorem enabledNibble_setWidth {c : BitVec 4} (h : c.getLsbD 3 = true) : enabledNibble (c.setWidth 3) = c := by
  revert c
  decide

/-- Settles O30: the three frames of an update are the bytes of well-formed frames, so they decode to those. -/
theorem emittedFramesDecode : Obligations.EmittedFramesDecode := by
  intro segments n p s hs hn hp henabled
  let payload : List Byte := (segments.take n).map (BitVec.ofNat 8)
  obtain ⟨sent, hframes, hbytes⟩ := afterUpdate_frames payload (positionField p) s
  refine ⟨_, sent.flatMap frameLogEvents, exec_setSegments hs hn hp, hframes, ?_⟩
  have fits : (WireFrame.address (positionField p) payload).wf = true := by
    simp [WireFrame.wf, positionField_toNat, payload]
    omega
  have control : [controlByte s.st.ctrl] = encodeFrame (.control (s.st.ctrl.setWidth 3)) := by
    rw [encodeFrame, enabledNibble_setWidth henabled]
  rw [framesOfLog_flatMap_frameLogEvents, hbytes, control, List.map_cons, List.map_cons, List.map_cons, List.map_nil,
    decodeFrame_encodeFrame rfl, decodeFrame_encodeFrame fits, decodeFrame_encodeFrame rfl]
  rfl

end Sys2Proof.Machine
end

section
/-!
PROOFS. The transport (spec/40_transport.md R65-R77): what each internal operation leaves, in every state; the counts of
`WAIT` and SAMPLE in a frame; and that no internal operation writes more of the block than the drive states of its lines.
-/

namespace Sys2Proof.Machine

/-! ## The counts of a frame (40_transport.md R73, R76) -/

@[simp] theorem waitCount_append (first second : List LineEvent) :
    waitCount (first ++ second) = waitCount first + waitCount second := List.countP_append

@[simp] theorem sampleCount_append (first second : List LineEvent) :
    sampleCount (first ++ second) = sampleCount first + sampleCount second := List.countP_append

/-- A bit cell waits twice and samples nothing, whatever its bit (30_encoding.md R48). -/
theorem counts_bitCell (d : Bool) : waitCount (bitCell d) = 2 ∧ sampleCount (bitCell d) = 0 := by
  cases d <;> decide

/-- The ACK cell waits once and samples once, whatever the answer (30_encoding.md R49). -/
theorem counts_ackCell (v : Level) : waitCount (ackCell v) = 1 ∧ sampleCount (ackCell v) = 1 := by
  cases v <;> decide

theorem counts_bitCells (bits : List Bool) :
    waitCount (bits.flatMap bitCell) = 2 * bits.length ∧ sampleCount (bits.flatMap bitCell) = 0 := by
  induction bits with
  | nil => exact ⟨rfl, rfl⟩
  | cons d rest ih =>
    obtain ⟨restWaits, restSamples⟩ := ih
    obtain ⟨bitWaits, bitSamples⟩ := counts_bitCell d
    rw [List.flatMap_cons, waitCount_append, sampleCount_append, bitWaits, bitSamples, restWaits, restSamples,
      List.length_cons]
    omega

/-- A byte waits twice for each of its eight bits and once for its answer, which it samples (30_encoding.md R50). -/
theorem counts_byteEvents (b : Byte) (v : Level) :
    waitCount (byteEvents b v) = 17 ∧ sampleCount (byteEvents b v) = 1 := by
  obtain ⟨bitWaits, bitSamples⟩ := counts_bitCells (lsbFirst b)
  obtain ⟨ackWaits, ackSamples⟩ := counts_ackCell v
  rw [byteEvents, waitCount_append, sampleCount_append, bitWaits, bitSamples, ackWaits, ackSamples]
  exact ⟨rfl, rfl⟩

theorem counts_bytes (bytes : List (Byte × Level)) :
    waitCount (bytes.flatMap fun p => byteEvents p.1 p.2) = 17 * bytes.length ∧
      sampleCount (bytes.flatMap fun p => byteEvents p.1 p.2) = bytes.length := by
  induction bytes with
  | nil => exact ⟨rfl, rfl⟩
  | cons p rest ih =>
    obtain ⟨restWaits, restSamples⟩ := ih
    obtain ⟨byteWaits, byteSamples⟩ := counts_byteEvents p.1 p.2
    rw [List.flatMap_cons, waitCount_append, sampleCount_append, byteWaits, byteSamples, restWaits, restSamples,
      List.length_cons]
    omega

/-- Settles O20: START waits once and STOP three times, and neither samples; the rest are the bytes' own. -/
theorem frameWaitCount : Obligations.FrameWaitCount := by
  intro bytes
  obtain ⟨waits, samples⟩ := counts_bytes bytes
  have startCounts : waitCount startEvents = 1 ∧ sampleCount startEvents = 0 := by decide
  have stopCounts : waitCount stopEvents = 3 ∧ sampleCount stopEvents = 0 := by decide
  simp only [frameLineEvents, waitCount_append, sampleCount_append, waits, samples, startCounts, stopCounts]
  omega

/-! ## What an internal operation keeps (40_transport.md R65-R74, R77) -/

/-- Every operation answers a next state: a fault and a refusal are outcomes written in it (60_exceptions.md R101; log 8). -/
theorem exists_exec_eq_next (i : Instr) (s : State) : ∃ t, exec i s = .next t := by
  cases i
  case init clk dio level delay retain =>
    simp only [exec, execInit]
    split
    · exact ⟨_, rfl⟩
    · split <;> exact ⟨_, rfl⟩
  all_goals exact ⟨_, rfl⟩

/-- An operation that updates the display is a public one (30_encoding.md R61, R62). -/
theorem hostCallable_of_isUpdate {i : Instr} (h : isUpdate i = true) : i.hostCallable = true := by
  cases i
  case setSegments | clear | displayInteger | displayTime => rfl
  all_goals cases h

/-- Of the forms of the state after an operation an internal one has two, and both write the drive states alone. -/
theorem exec_st_of_internal {i : Instr} {s t : State} (hi : i.hostCallable = false) (h : exec i s = .next t) :
    t.st = { s.st with clk := t.st.clk, dio := t.st.dio } := by
  cases exec_next_cases h with
  | byte => subst t; rfl
  | line => subst t; rfl
  | outcome _ hpublic => simp [hpublic] at hi
  | update _ _ hupdate => simp [hostCallable_of_isUpdate hupdate] at hi
  | brightness _ hbrightness => subst hbrightness; cases hi
  | initialised _ _ _ _ _ hinit => subst hinit; cases hi

/-- Settles O23: the drive states by the forms of the next state; no operation at all writes parameters or requests. -/
theorem internalOperationsTouchOnlyTheLines : Obligations.InternalOperationsTouchOnlyTheLines := by
  intro i s hi
  obtain ⟨t, h⟩ := exists_exec_eq_next i s
  exact ⟨t, h, exec_st_of_internal hi h, exec_params h, exec_pending h⟩

/-! ## The line primitives (40_transport.md R65-R69) -/

/-- To end normally writes the outcome and nothing else (60_exceptions.md R105). -/
theorem conclude_done (r : Result) (s : State) :
    conclude (.done r) s = { s with outcomes := s.outcomes ++ [.done r] } := rfl

theorem exec_drive (l : Line) (s : State) :
    exec (.drive l) s =
      .next (conclude (.done .unit) { setDrive l .low s with trace := s.trace ++ [.drive l] }) := by
  rw [exec, execDrive, driveLine_eq]

theorem exec_release (l : Line) (s : State) :
    exec (.release l) s =
      .next (conclude (.done .unit) { setDrive l .rel s with trace := s.trace ++ [.rel l] }) := by
  rw [exec, execRelease, releaseLine_eq]

/-- Settles O9: each line's drive state is set in its own field, and the event is appended whatever that field was. -/
theorem driveAndReleaseComplete : Obligations.DriveAndReleaseComplete :=
  fun s => ⟨exec_drive .clk s, exec_drive .dio s, exec_release .clk s, exec_release .dio s⟩

theorem exec_setData (d : Bool) (s : State) :
    exec (.setData d) s =
      .next (conclude (.done .unit) { s with
        st := { s.st with dio := if d then .rel else .low }
        trace := s.trace ++ [if d then .rel .dio else .drive .dio] }) := by
  rw [exec, execSetData, setDataLine_eq]

/-- Settles O10: the two values of the bit. -/
theorem setDataFollowsTheBit : Obligations.SetDataFollowsTheBit :=
  fun s => ⟨exec_setData false s, exec_setData true s⟩

/-- Settles O11: `wait` records its event, and ends normally. -/
theorem waitCompletes : Obligations.WaitCompletes := by
  intro s
  rw [exec, execWait, conclude_done, waitBit, record]

/-- A line the receiver pulls is low, whatever the block does (10_state.md R27). -/
theorem dioLevel_of_pullDIO (pullup : Bool) (dio : Drive) {x : Draw} (h : x.pullDIO = true) :
    dioLevel pullup dio x = .low := if_pos (.inr h)

/-- A released line that nothing pulls is left to the pull-up, and without one to the level it floats to
(10_state.md R27, D15). -/
theorem dioLevel_of_not_pullDIO (pullup : Bool) {x : Draw} (h : x.pullDIO = false) :
    dioLevel pullup .rel x = if pullup then .high else x.floats := by
  simp [dioLevel, h]

/-- Settles O12: the level sampled is `dioLevel` of the drive state and the next draw. -/
theorem sampleReadsTheWiredLevel : Obligations.SampleReadsTheWiredLevel := by
  intro s
  refine ⟨sampledLevel s, by rw [exec, execSample, conclude_done]; rfl, ?_, ?_, ?_, ?_⟩
  · intro driven
    rw [sampledLevel, driven, dioLevel_low]
  · intro pulled
    rw [sampledLevel, dioLevel_of_pullDIO _ _ pulled]
  · intro released notPulled pullup
    rw [sampledLevel, released, dioLevel_of_not_pullDIO _ notPulled, pullup]
    rfl
  · intro released notPulled noPullup
    rw [sampledLevel, released, dioLevel_of_not_pullDIO _ notPulled, noPullup]
    rfl

/-! ## START, STOP and `sendByte` (40_transport.md R70-R74) -/

/-- Settles O14: START is its four line events and its transport event. -/
theorem startCompletes : Obligations.StartCompletes := by
  intro s
  rw [exec, execStart, transportStart_eq, conclude_done, startEvents]

/-- Settles O15: STOP is its seven line events and its transport event. -/
theorem stopCompletes : Obligations.StopCompletes := by
  intro s
  rw [exec, execStop, transportStop_eq, conclude_done, stopEvents]

/-- `sendByte` sends the low eight bits of its argument (40_transport.md R72, D14). -/
theorem exec_sendByte (b : Nat) (s : State) : exec (.sendByte b) s = .next (afterByte (BitVec.ofNat 8 b) s) :=
  congrArg Host.Outcome.next (sendByte_conclude (zext8 b) s)

/-- The line events of a byte, written out: its bits in the order they are clocked, each in the cell of
30_encoding.md R48, and the ACK cell of R49. -/
theorem byteEvents_eq (b : Byte) (v : Level) :
    byteEvents b v =
      (([0, 1, 2, 3, 4, 5, 6, 7] : List Nat).map b.getLsbD).flatMap
          (fun d => [.drive .clk, if d then .rel .dio else .drive .dio, .wait, .rel .clk, .wait]) ++
        [.drive .clk, .rel .dio, .rel .clk, .wait, .sample v, .drive .clk] := rfl

/-- Settles O16: the state after a byte, with its line events written out. -/
theorem sendByteCompletes : Obligations.SendByteCompletes := by
  intro b s v hv
  subst hv
  rw [exec_sendByte, afterByte, byteEvents_eq, ← List.append_assoc]

/-- With the pull-up the ACK sample is low exactly when the receiver pulls DIO (40_transport.md R74). -/
theorem decide_ackLevel_eq_low {s : State} (h : s.params.pullupPresent = true) :
    decide (ackLevel s = .low) = (nextDraw s).pullDIO := by
  rw [ackLevel, h, dioLevel_released]
  cases (nextDraw s).pullDIO <;> rfl

/-- Settles O18: the outcome of `sendByte` is whether the ACK sample is low, and the byte has no part in that. -/
theorem ackIsTheReceiversPull : Obligations.AckIsTheReceiversPull := by
  intro b s pullup
  refine ⟨_, exec_sendByte b s, ?_⟩
  rw [afterByte, decide_ackLevel_eq_low pullup]

end Sys2Proof.Machine
end

section
/-!
PROOFS. The command protocol (spec/41_command_protocol.md R78-R87): the refusals before and of `init`, the update and
its counts, the internal operations it consists of, the snapshot, and that the receiver's answers change nothing else.
-/

namespace Sys2Proof.Machine

/-! ## Refusals and faults (41_command_protocol.md R78, R80, R87) -/

/-- A second `init` is refused, whatever its arguments (41_command_protocol.md R87). -/
theorem exec_init_of_initialised {s : State} (hs : s.st.initialised = true) (clk dio : LineId) (level : Int)
    (delay : Nat) (retain : Bool) :
    exec (.init clk dio level delay retain) s = .next (conclude (.refused .alreadyInitialised) s) := by
  simp [exec, execInit, hs]

/-- A first `init` with one line twice is refused (41_command_protocol.md R87). -/
theorem exec_init_sameLine {s : State} (hs : s.st.initialised = false) (line : LineId) (level : Int) (delay : Nat)
    (retain : Bool) : exec (.init line line level delay retain) s = .next (conclude (.refused .sameLine) s) := by
  simp [exec, execInit, hs]

/-- Settles O26: `init` looks at `st.initialised` first, and then at its two lines. -/
theorem initRefusals : Obligations.InitRefusals := by
  intro clk dio level delay retain s
  refine ⟨fun hs => exec_init_of_initialised hs clk dio level delay retain, fun hs hsame => ?_⟩
  subst hsame
  exact exec_init_sameLine hs clk level delay retain

/-- Settles O27: each of these operations is a `requireInit`, which refuses before it looks at anything else. -/
theorem hostOperationsNeedInit : Obligations.HostOperationsNeedInit := by
  intro i s hs hcall notInit notDigit
  cases i with
  | init clk dio level delay retain => exact absurd rfl (notInit clk dio level delay retain)
  | digitToSegment v => exact absurd rfl (notDigit v)
  | setSegments | setBrightness | clear | getSegments | displayInteger | displayTime =>
    exact congrArg Host.Outcome.next (requireInit_of_not_initialised hs)
  | _ => cases hcall

/-- Settles O32: past the check of `st.initialised` an update is possible only where the count fits. -/
theorem setSegmentsFaultsOnBadCount : Obligations.SetSegmentsFaultsOnBadCount := by
  intro segments n p s hs hbad
  obtain ⟨h0, _⟩ | ⟨_, _, hfault⟩ | ⟨_, hfits, _⟩ := setSegmentsOp_cases (segments.map zext8) n p s
  · simp [hs] at h0
  · exact congrArg Host.Outcome.next hfault
  · rw [badDigitCount_eq_false, List.length_map] at hfits
    omega

/-! ## The update and its counts (41_command_protocol.md R79, R84) -/

/-- Settles O28: the address field of the update is the position modulo 4. -/
theorem setSegmentsCompletes : Obligations.SetSegmentsCompletes :=
  fun _ _ _ _ hs hn hp => exec_setSegments hs hn hp

/-- Settles O36: the only write is that of the control register. -/
theorem setBrightnessCompletes : Obligations.SetBrightnessCompletes := by
  intro level s hs
  rw [exec_setBrightness hs, conclude_done, ctrlOfLevel_eq]

/-- A byte is eight bit cells of five events and an ACK cell of six (30_encoding.md R48-R50). -/
@[simp] theorem length_byteEvents (b : Byte) (v : Level) : (byteEvents b v).length = 46 := rfl

/-- START has four events and STOP seven; the rest are the bytes' own (30_encoding.md R56). -/
theorem length_frameLineEvents (bytes : List (Byte × Level)) :
    (frameLineEvents bytes).length = 11 + 46 * bytes.length := by
  simp [frameLineEvents, startEvents, stopEvents]
  omega

/-- Every byte of a frame has its answer. -/
@[simp] theorem length_answered (bytes : List Byte) (s : State) : (answered bytes s).length = bytes.length := by
  simp [answered]

/-- The line events of an update are three frames: of one byte, of the address byte and the payload, and of one byte
(30_encoding.md R58). -/
theorem afterUpdate_trace (payload : List Byte) (p : BitVec 2) (s : State) :
    ∃ f1 f2 f3,
      (afterUpdate payload p s).trace =
        s.trace ++ (frameLineEvents f1 ++ frameLineEvents f2 ++ frameLineEvents f3) ∧
      f1.length = 1 ∧ f2.length = payload.length + 1 ∧ f3.length = 1 := by
  let s1 := afterFrame [0x40#8] s
  let s2 := afterFrame (addressByte p :: payload) s1
  refine ⟨answered [0x40#8] s, answered (addressByte p :: payload) s1, answered [0x80#8 ||| s.st.ctrl.setWidth 8] s2,
    ?_, by simp, by simp, by simp⟩
  simp [s1, s2, afterUpdate, afterThreeFrames, afterFrame, addressByte]

/-- Settles O31: the counts of three frames with `3 + n` bytes in all. -/
theorem setSegmentsCounts : Obligations.SetSegmentsCounts := by
  intro segments n p s hs hn hp
  obtain ⟨f1, f2, f3, htrace, h1, h2, h3⟩ :=
    afterUpdate_trace ((segments.take n).map (BitVec.ofNat 8)) (positionField p) s
  rw [List.length_map, List.length_take_of_le hn] at h2
  obtain ⟨waits1, samples1⟩ := frameWaitCount f1
  obtain ⟨waits2, samples2⟩ := frameWaitCount f2
  obtain ⟨waits3, samples3⟩ := frameWaitCount f3
  have waits : waitCount (frameLineEvents f1 ++ frameLineEvents f2 ++ frameLineEvents f3) = 63 + 17 * n := by
    simp only [waitCount_append]
    omega
  refine ⟨_, _, exec_setSegments hs hn hp, htrace, ?_, waits, ?_, by rw [minElapsedUs, waits]⟩
  · simp only [List.length_append, length_frameLineEvents]
    omega
  · simp only [sampleCount_append]
    omega

/-! ## The snapshot (41_command_protocol.md R82, R85, R86) -/

/-- An initialised `getSegments` ends with the outcome of the snapshot and does nothing else (41_command_protocol.md
R86). -/
theorem exec_getSegments {s : State} (hs : s.st.initialised = true) :
    exec .getSegments s = .next (conclude (snapshotOutcome s.st) s) :=
  congrArg Host.Outcome.next (requireInit_of_initialised hs)

theorem snapshotOutcome_of_retained {b : Block} {v : Pattern} (hr : b.retain = true) (hv : b.snap = some v) :
    snapshotOutcome b = .done (.pattern v) := by
  simp [snapshotOutcome, hr, hv]

theorem snapshotOutcome_of_not_retained {b : Block} (hr : b.retain = false) :
    snapshotOutcome b = .refused .noSnapshot := by
  simp [snapshotOutcome, hr]

/-- Settles O40: the two outcomes of the snapshot. -/
theorem getSegmentsReturnsTheSnapshot : Obligations.GetSegmentsReturnsTheSnapshot := by
  refine ⟨fun s v hs hr hv => ?_, fun s hs hr => ?_⟩
  · rw [exec_getSegments hs, snapshotOutcome_of_retained hr hv, conclude_done]
  · rw [exec_getSegments hs, snapshotOutcome_of_not_retained hr]
    rfl

/-- An update writes the snapshot where it is retained (41_command_protocol.md R79). -/
theorem afterUpdate_snap {s : State} (hr : s.st.retain = true) (payload : List Byte) (p : BitVec 2) :
    (afterUpdate payload p s).st.snap = some (snapshotOf payload p) := if_pos hr

/-- The payload of an update holds the low eight bits of the first `n` segments (41_command_protocol.md R79). -/
theorem getD_map_take (segments : List Nat) (n j : Nat) :
    ((segments.take n).map (BitVec.ofNat 8)).getD j 0x00#8 =
      if j < n then BitVec.ofNat 8 (segments.getD j 0) else 0x00#8 := by
  by_cases hj : j < n
  · cases hseg : segments[j]? <;> simp [List.getD, hj, hseg]
  · simp [List.getD, hj]

/-- At each position the snapshot of an update has the byte written there, and blank elsewhere
(41_command_protocol.md R82). -/
theorem snapshotOf_payload_getElem (segments : List Nat) (n : Nat) (p : Int) (k : Nat) (hk : k < 4) :
    (snapshotOf ((segments.take n).map (BitVec.ofNat 8)) (positionField p))[k] =
      if (p % 4).toNat ≤ k ∧ k < (p % 4).toNat + n
        then BitVec.ofNat 8 (segments.getD (k - (p % 4).toNat) 0) else 0x00#8 := by
  rw [snapshotOf, Vector.getElem_ofFn, getD_map_take, positionField_toNat]
  by_cases hle : (p % 4).toNat ≤ k
  · have hlt : k - (p % 4).toNat < n ↔ k < (p % 4).toNat + n := by omega
    simp only [hle, hlt, if_true, true_and]
  · simp only [hle, if_false, false_and]

/-- Settles O33: an update stores its payload, and `getSegments` after it returns what is stored. -/
theorem snapshotHoldsTheLastUpdate : Obligations.SnapshotHoldsTheLastUpdate := by
  intro segments n p s hs hr hn hp
  let payload : List Byte := (segments.take n).map (BitVec.ofNat 8)
  let t := afterUpdate payload (positionField p) s
  have hsnap : t.st.snap = some (snapshotOf payload (positionField p)) := afterUpdate_snap hr _ _
  have outcome : snapshotOutcome t.st = .done (.pattern (snapshotOf payload (positionField p))) :=
    snapshotOutcome_of_retained hr hsnap
  have returned := exec_getSegments (s := t) hs
  rw [outcome] at returned
  exact ⟨t, _, _, exec_setSegments hs hn hp, hsnap, snapshotOf_payload_getElem segments n p, returned, rfl⟩

/-- `clear` is `setSegments` of four blank bytes at position 0 (41_command_protocol.md R85). -/
theorem exec_clear (s : State) : exec .clear s = exec (.setSegments [0x00, 0x00, 0x00, 0x00] 4 0) s := rfl

/-- An initialised `clear` ends as an update of all four positions (41_command_protocol.md R85). -/
theorem exec_clear_of_initialised {s : State} (hs : s.st.initialised = true) :
    exec .clear s = .next (afterUpdate [0x00#8, 0x00#8, 0x00#8, 0x00#8] 0 s) :=
  exec_setSegments (segments := [0x00, 0x00, 0x00, 0x00]) (p := 0) hs (by decide) (by decide)

/-- The snapshot of four blank bytes is blank. -/
theorem snapshotOf_blank :
    snapshotOf [0x00#8, 0x00#8, 0x00#8, 0x00#8] 0 = #v[0x00#8, 0x00#8, 0x00#8, 0x00#8] := by
  decide

/-- Settles O39: `clear` is that call, and what the call logs and stores is what any update does. -/
theorem clearIsABlankUpdate : Obligations.ClearIsABlankUpdate := by
  refine ⟨exec_clear, fun s hs => ?_, fun s hs => exec_clear_of_initialised hs, fun s hs => ?_⟩
  · exact congrArg Host.Outcome.next (requireInit_of_not_initialised hs)
  · obtain ⟨sent, hframes, hbytes⟩ := afterUpdate_frames [0x00#8, 0x00#8, 0x00#8, 0x00#8] 0 s
    refine ⟨_, sent.flatMap frameLogEvents, exec_clear_of_initialised hs, hframes, ?_, fun hr => ?_⟩
    · rw [framesOfLog_flatMap_frameLogEvents, hbytes, controlByte_eq]
      rfl
    · rw [afterUpdate_snap hr, snapshotOf_blank]

/-! ## An update as its internal operations (41_command_protocol.md R79; log 5) -/

/-- `s` with its log of outcomes replaced (log 7). -/
def State.withOutcomes (os : List CallOutcome) (s : State) : State := { s with outcomes := os }

/-- The operations, run one after another, do `f` but for the outcomes they log, and `f` does not read the outcomes. -/
structure RunAs (ops : List Instr) (f : State → State) : Prop where
  runs : ∀ s, ∃ os, runOps ops s = some ((f s).withOutcomes os)
  blind : ∀ os s, f (s.withOutcomes os) = (f s).withOutcomes os

/-- Operations run one list after another. -/
theorem runOps_append (first second : List Instr) (s : State) :
    runOps (first ++ second) s = (runOps first s).bind (runOps second) := by
  induction first generalizing s with
  | nil => rfl
  | cons i rest ih =>
    simp only [List.cons_append, runOps]
    cases exec i s with
    | next t => exact ih t
    | fault r => rfl
    | refused r => rfl

theorem RunAs.nil : RunAs [] id := ⟨fun s => ⟨s.outcomes, rfl⟩, fun _ _ => rfl⟩

theorem RunAs.append {first second : List Instr} {f g : State → State} (hf : RunAs first f) (hg : RunAs second g) :
    RunAs (first ++ second) (fun s => g (f s)) where
  runs s := by
    obtain ⟨os, hfirst⟩ := hf.runs s
    obtain ⟨os', hsecond⟩ := hg.runs ((f s).withOutcomes os)
    refine ⟨os', ?_⟩
    rw [runOps_append, hfirst, Option.bind_some, hsecond, hg.blind]
    rfl
  blind os s := by rw [hf.blind, hg.blind]

/-- One operation that always ends normally does what it does before it logs its outcome. -/
theorem RunAs.single {i : Instr} {f : State → State} (result : State → Result)
    (runs : ∀ s, exec i s = .next (conclude (.done (result s)) (f s)))
    (blind : ∀ os s, f (s.withOutcomes os) = (f s).withOutcomes os) : RunAs [i] f where
  runs s := ⟨(f s).outcomes ++ [.done (result s)], by rw [runOps, runs s]; rfl⟩
  blind := blind

theorem runAs_start : RunAs [.start] transportStart := .single (fun _ => .unit) (fun _ => rfl) fun _ _ => rfl

theorem runAs_stop : RunAs [.stop] transportStop := .single (fun _ => .unit) (fun _ => rfl) fun _ _ => rfl

/-- An operation that sends a byte and ends with its ACK does what the sending with its result discarded does
(log 5). -/
theorem runAs_sendDiscarding {i : Instr} {b : Byte}
    (runs : ∀ s, exec i s =
      .next (conclude (.done (.ack (transportSendByte b s).1)) (transportSendByte b s).2)) :
    RunAs [i] (fun s => sendDiscarding s b) := by
  refine .single (fun s => .ack (transportSendByte b s).1) runs fun os s => ?_
  simp only [sendDiscarding, transportSendByte_eq]
  rfl

/-- The payload rows do what the sending of their bytes in order does. -/
theorem runAs_segmentData (payload : List Byte) :
    RunAs (payload.map .segmentData) (fun s => payload.foldl sendDiscarding s) := by
  induction payload with
  | nil => exact .nil
  | cons b rest ih => exact (runAs_sendDiscarding (b := b) fun _ => rfl).append ih

/-- START, the bytes and STOP are one frame (30_encoding.md R56). -/
theorem runAs_sendFrame {ops : List Instr} {bytes : List Byte}
    (h : RunAs ops (fun s => bytes.foldl sendDiscarding s)) : RunAs ([.start] ++ ops ++ [.stop]) (sendFrame bytes) :=
  (runAs_start.append h).append runAs_stop

/-- The internal operations of an update are its three frames (41_command_protocol.md R79, pseudocode). -/
theorem runAs_updateOps (payload : List Byte) (p : BitVec 2) (lll : BitVec 3) :
    RunAs (updateOps payload p lll) (fun s =>
      sendFrame [controlByte (enabledNibble lll)]
        (sendFrame (addressByte p :: payload) (sendFrame [dataWriteByte] s))) := by
  have dataWrite : RunAs [.dataWrite] (fun s => [dataWriteByte].foldl sendDiscarding s) :=
    runAs_sendDiscarding fun _ => rfl
  have address : RunAs ([.addrSet p] ++ payload.map .segmentData)
      (fun s => (addressByte p :: payload).foldl sendDiscarding s) :=
    (runAs_sendDiscarding fun _ => rfl).append (runAs_segmentData payload)
  have control : RunAs [.displayCtrl lll] (fun s => [controlByte (enabledNibble lll)].foldl sendDiscarding s) :=
    runAs_sendDiscarding fun _ => rfl
  exact ((runAs_sendFrame dataWrite).append (runAs_sendFrame address)).append (runAs_sendFrame control)

/-- Settles O34: the operations do the three frames, and an update is those with the snapshot and its own outcome. -/
theorem updateIsItsInternalOperations : Obligations.UpdateIsItsInternalOperations := by
  intro segments n p s hs hn hp henabled
  let payload : List Byte := (segments.take n).map (BitVec.ofNat 8)
  obtain ⟨os, hruns⟩ := (runAs_updateOps payload (positionField p) (s.st.ctrl.setWidth 3)).runs s
  have frames : sendFrame [controlByte s.st.ctrl]
      (sendFrame (addressByte (positionField p) :: payload) (sendFrame [dataWriteByte] s)) =
        afterThreeFrames payload (positionField p) s := by
    simp only [sendFrame_eq, controlByte_eq]
    rfl
  rw [enabledNibble_setWidth henabled, frames] at hruns
  exact ⟨_, _, hruns, exec_setSegments hs hn hp, rfl⟩

/-! ## The receiver's answers (41_command_protocol.md R81, R83; D7) -/

/-- The two states are the same but for the coming draws, the ACKs logged and the levels sampled. -/
structure SameButAnswers (s t : State) : Prop where
  st : t.st = s.st
  params : t.params = s.params
  outcomes : t.outcomes = s.outcomes
  frames : t.frames.map hideAck = s.frames.map hideAck
  trace : t.trace.map hideSample = s.trace.map hideSample

/-- What `f` does depends on the receiver's answers in the answers alone. -/
def IgnoresAnswers (f : State → State) : Prop := ∀ s t, SameButAnswers s t → SameButAnswers (f s) (f t)

theorem IgnoresAnswers.comp {f g : State → State} (hg : IgnoresAnswers g) (hf : IgnoresAnswers f) :
    IgnoresAnswers (fun s => g (f s)) := fun s t h => hg _ _ (hf s t h)

/-- An operation that writes only the block, by what the block was, does not see the answers. -/
theorem ignoresAnswers_mapBlock (f : Block → Block) : IgnoresAnswers (fun s => { s with st := f s.st }) :=
  fun _ _ h => ⟨congrArg f h.st, h.params, h.outcomes, h.frames, h.trace⟩

theorem ignoresAnswers_conclude (o : CallOutcome) : IgnoresAnswers (conclude o) := fun s t h => by
  refine ⟨?_, h.params, ?_, h.frames, h.trace⟩
  · simp only [conclude, h.st]
  · rw [conclude_outcomes, conclude_outcomes, h.outcomes]

theorem ignoresAnswers_record (e : LineEvent) : IgnoresAnswers (record e) := fun s t h => by
  refine ⟨h.st, h.params, h.outcomes, h.frames, ?_⟩
  rw [record_trace, record_trace, List.map_append, List.map_append, h.trace]

/-- What is chosen by the block and the parameters does not see the answers. -/
theorem ignoresAnswers_of_parts {f : Block → Params → State → State} (h : ∀ b params, IgnoresAnswers (f b params)) :
    IgnoresAnswers (fun s => f s.st s.params s) := fun s t hst => by
  dsimp only
  rw [hst.st, hst.params]
  exact h _ _ s t hst

theorem ignoresAnswers_ite {c : Prop} [Decidable c] {f g : State → State} (hf : IgnoresAnswers f)
    (hg : IgnoresAnswers g) : IgnoresAnswers (fun s => if c then f s else g s) := fun s t h => by
  dsimp only
  split
  · exact hf s t h
  · exact hg s t h

theorem ignoresAnswers_requireInit {body : State → State} (h : IgnoresAnswers body) :
    IgnoresAnswers (requireInit body) :=
  ignoresAnswers_of_parts (f := fun b _ s => if b.initialised then body s else conclude (.refused .notInitialised) s)
    fun _ _ => ignoresAnswers_ite h (ignoresAnswers_conclude _)

/-- Without what its SAMPLE read, a byte has the same line events whatever the answer. -/
theorem map_hideSample_byteEvents (b : Byte) (v w : Level) :
    (byteEvents b v).map hideSample = (byteEvents b w).map hideSample := by
  simp [byteEvents, ackCell, hideSample]

/-- Without the answers, the line events of the bytes of a frame are fixed by the bytes. -/
theorem map_hideSample_bytes {first second : List (Byte × Level)}
    (h : first.map Prod.fst = second.map Prod.fst) :
    (first.flatMap fun p => byteEvents p.1 p.2).map hideSample =
      (second.flatMap fun p => byteEvents p.1 p.2).map hideSample := by
  induction first generalizing second with
  | nil => rw [List.map_eq_nil_iff.mp h.symm]
  | cons p rest ih =>
    cases second with
    | nil => cases h
    | cons q rest' =>
      injection h with hb hrest
      rw [List.flatMap_cons, List.flatMap_cons, List.map_append, List.map_append, ih hrest, hb,
        map_hideSample_byteEvents q.1 p.2 q.2]

/-- Without the answers, the line events of a frame are fixed by its bytes (30_encoding.md R56). -/
theorem map_hideSample_frameLineEvents {first second : List (Byte × Level)}
    (h : first.map Prod.fst = second.map Prod.fst) :
    (frameLineEvents first).map hideSample = (frameLineEvents second).map hideSample := by
  simp only [frameLineEvents, List.map_append, map_hideSample_bytes h]

/-- Without the ACKs, the transport events of a frame are fixed by its bytes (30_encoding.md R56). -/
theorem map_hideAck_frameLogEvents (bytes : List (Byte × Level)) :
    (frameLogEvents bytes).map hideAck =
      .start :: (bytes.map Prod.fst).map (fun b => .byte b false) ++ [.stop] := by
  simp [frameLogEvents, hideAck]

/-- A frame discards the answers to its bytes (41_command_protocol.md R81). -/
theorem ignoresAnswers_sendFrame (bytes : List Byte) : IgnoresAnswers (sendFrame bytes) := fun s t h => by
  rw [sendFrame_eq, sendFrame_eq]
  refine ⟨?_, h.params, h.outcomes, ?_, ?_⟩
  · simp only [afterFrame, h.st]
  · simp only [afterFrame, List.map_append, h.frames, map_hideAck_frameLogEvents, map_fst_answered]
  · have events : (frameLineEvents (answered bytes t)).map hideSample =
        (frameLineEvents (answered bytes s)).map hideSample :=
      map_hideSample_frameLineEvents (by rw [map_fst_answered, map_fst_answered])
    simp only [afterFrame, List.map_append, h.trace, events]

/-- The control byte of the last frame is read from the block, so the three frames do not see the answers. -/
theorem ignoresAnswers_sendThreeFrames (payload : List Byte) (p : BitVec 2) :
    IgnoresAnswers (sendThreeFrames payload p) :=
  have control : IgnoresAnswers (fun s => sendFrame [controlByte s.st.ctrl] s) :=
    ignoresAnswers_of_parts (f := fun b _ => sendFrame [controlByte b.ctrl]) fun _ _ => ignoresAnswers_sendFrame _
  (control.comp (ignoresAnswers_sendFrame (addressByte p :: payload))).comp (ignoresAnswers_sendFrame [dataWriteByte])

theorem ignoresAnswers_retainSnapshot (payload : List Byte) (p : BitVec 2) :
    IgnoresAnswers (retainSnapshot payload p) :=
  ignoresAnswers_of_parts
    (f := fun b _ s => if b.retain then { s with st := { s.st with snap := some (snapUpdate payload p) } } else s)
    fun _ _ => ignoresAnswers_ite (ignoresAnswers_mapBlock fun b => { b with snap := some (snapUpdate payload p) })
      fun _ _ h => h

/-- An update is its frames, its snapshot and its outcome, and none of them sees the answers. -/
theorem ignoresAnswers_setSegmentsOp (segments : List Byte) (n : Nat) (p : Int) :
    IgnoresAnswers (setSegmentsOp segments n p) :=
  ignoresAnswers_requireInit (ignoresAnswers_ite (ignoresAnswers_conclude _)
    (((ignoresAnswers_conclude _).comp (ignoresAnswers_retainSnapshot _ _)).comp
      (ignoresAnswers_sendThreeFrames _ _)))

theorem ignoresAnswers_releaseLine (l : Line) : IgnoresAnswers (releaseLine l) := by
  refine (ignoresAnswers_record (.rel l)).comp (f := setDrive l .rel) ?_
  cases l with
  | clk => exact ignoresAnswers_mapBlock fun b => { b with clk := .rel }
  | dio => exact ignoresAnswers_mapBlock fun b => { b with dio := .rel }

theorem ignoresAnswers_initialise (clk dio : LineId) (level : Int) (delay : Nat) (retain : Bool) :
    IgnoresAnswers (initialise clk dio level delay retain) :=
  have parameters := ignoresAnswers_mapBlock fun b =>
    { b with
      clkLine := clk
      dioLine := dio
      bitDelay := delay
      ctrl := ctrlOfLevel level
      retain := retain
      snap := if retain then some blankPattern else none }
  have mark := ignoresAnswers_mapBlock fun b => { b with initialised := true }
  mark.comp ((ignoresAnswers_releaseLine .dio).comp ((ignoresAnswers_releaseLine .clk).comp parameters))

/-- The state after an `init` by a block that is `b` before it (41_command_protocol.md R87). -/
def initOp (clk dio : LineId) (level : Int) (delay : Nat) (retain : Bool) (b : Block) (s : State) : State :=
  if b.initialised then conclude (.refused .alreadyInitialised) s
  else if clk = dio then conclude (.refused .sameLine) s
  else conclude (.done .unit) (initialise clk dio level delay retain s)

theorem exec_init_eq (clk dio : LineId) (level : Int) (delay : Nat) (retain : Bool) (s : State) :
    exec (.init clk dio level delay retain) s = .next (initOp clk dio level delay retain s.st s) := by
  rw [exec, execInit, initOp]
  split_ifs <;> rfl

theorem ignoresAnswers_initOp (clk dio : LineId) (level : Int) (delay : Nat) (retain : Bool) :
    IgnoresAnswers (fun s => initOp clk dio level delay retain s.st s) :=
  ignoresAnswers_of_parts (f := fun b _ => initOp clk dio level delay retain b) fun _ _ =>
    ignoresAnswers_ite (ignoresAnswers_conclude _) (ignoresAnswers_ite (ignoresAnswers_conclude _)
      ((ignoresAnswers_conclude _).comp (ignoresAnswers_initialise clk dio level delay retain)))

/-- What a public operation does depends on the receiver's answers in the answers alone. -/
theorem exec_ignoresAnswers {i : Instr} (hi : i.hostCallable = true) :
    ∃ f, IgnoresAnswers f ∧ ∀ s, exec i s = .next (f s) := by
  cases i with
  | init clk dio level delay retain =>
    exact ⟨_, ignoresAnswers_initOp clk dio level delay retain, exec_init_eq clk dio level delay retain⟩
  | setSegments segments n p => exact ⟨_, ignoresAnswers_setSegmentsOp (segments.map zext8) n p, fun _ => rfl⟩
  | setBrightness level =>
    have write := ignoresAnswers_mapBlock fun b => { b with ctrl := ctrlOfLevel level }
    exact ⟨_, ignoresAnswers_requireInit ((ignoresAnswers_conclude (.done .unit)).comp write), fun _ => rfl⟩
  | clear => exact ⟨_, ignoresAnswers_setSegmentsOp (List.replicate 4 blankByte) 4 0, fun _ => rfl⟩
  | getSegments =>
    have body := ignoresAnswers_of_parts (f := fun b _ => conclude (snapshotOutcome b))
      fun _ _ => ignoresAnswers_conclude _
    exact ⟨_, ignoresAnswers_requireInit body, fun _ => rfl⟩
  | digitToSegment value =>
    exact ⟨_, ignoresAnswers_of_parts (f := fun _ params => conclude (.done (.byte (seg params.segLut value))))
      fun _ _ => ignoresAnswers_conclude _, fun _ => rfl⟩
  | displayInteger x =>
    have body := ignoresAnswers_of_parts
      (f := fun _ params s =>
        if intAccepted x then setSegmentsOp (intPattern params.segLut x) 4 0 s else conclude .ignored s)
      fun _ _ => ignoresAnswers_ite (ignoresAnswers_setSegmentsOp _ 4 0) (ignoresAnswers_conclude _)
    exact ⟨_, ignoresAnswers_requireInit body, fun _ => rfl⟩
  | displayTime a b =>
    have body := ignoresAnswers_of_parts
      (f := fun _ params s =>
        if timeAccepted a b then setSegmentsOp (timePattern params.segLut a b) 4 0 s else conclude .ignored s)
      fun _ _ => ignoresAnswers_ite (ignoresAnswers_setSegmentsOp _ 4 0) (ignoresAnswers_conclude _)
    exact ⟨_, ignoresAnswers_requireInit body, fun _ => rfl⟩
  | _ => cases hi

/-- Settles O35: states with other draws coming are the same but for the answers, and public operations keep that. -/
theorem ackAnswersChangeNothingElse : Obligations.AckAnswersChangeNothingElse := by
  intro i s t t' rx draws hi ht ht'
  obtain ⟨f, hf, hexec⟩ := exec_ignoresAnswers hi
  rw [hexec, Host.Outcome.next.injEq] at ht ht'
  subst ht ht'
  obtain ⟨st, _, outcomes, frames, trace⟩ := hf s { s with rx := rx, draws := draws } ⟨rfl, rfl, rfl, rfl, rfl⟩
  exact ⟨st, outcomes, frames, trace⟩

end Sys2Proof.Machine
end

section
/-!
PROOFS. The digit encoding (spec/42_digit_encoding.md R90-R98): the table entry of a value, the patterns of integers and
times, and what the operations that show them do.
-/

namespace Sys2Proof.Machine

/-! ## The table entry of a value (42_digit_encoding.md R90) -/

theorem seg_eq_get {value : Int} {k : Fin 16} (lut : Vector Byte 16) (h : value % 16 = (k.val : Int)) :
    seg lut value = lut.get k := by
  simp only [seg, h, Int.toNat_natCast]
  rfl

theorem seg_natCast (lut : Vector Byte 16) (n : Nat) : seg lut (n : Int) = lut.get (Fin.ofNat 16 n) :=
  seg_eq_get lut (by rw [Fin.val_ofNat, Int.natCast_mod]; rfl)

theorem seg_of_nonneg (lut : Vector Byte 16) {value : Int} (h : 0 ≤ value) :
    seg lut value = lut.get (Fin.ofNat 16 value.toNat) := by
  rw [← seg_natCast, Int.toNat_of_nonneg h]

/-- Settles O41: the entry the operation answers is that of the remainder. -/
theorem digitToSegmentReadsTheTable : Obligations.DigitToSegmentReadsTheTable := by
  intro value k s hk
  rw [exec, execDigitToSegment, conclude_done, seg_eq_get _ hk]

/-! ## The digits of a magnitude (42_digit_encoding.md R92) -/

/-- The decimal digits of a number without leading zeros, left to right; zero has its units digit (42_digit_encoding.md
R95). -/
def significantDigits (m : Nat) : List Nat := if m = 0 then [0] else (Nat.digits 10 m).reverse

theorem significantDigits_of_lt_ten {m : Nat} (h : m < 10) : significantDigits m = [m] := by
  by_cases h0 : m = 0
  · rw [significantDigits, if_pos h0, h0]
  · rw [significantDigits, if_neg h0, Nat.digits_of_lt 10 m h0 h, List.reverse_singleton]

theorem significantDigits_of_ten_le {m : Nat} (h : 10 ≤ m) :
    significantDigits m = significantDigits (m / 10) ++ [m % 10] := by
  rw [significantDigits, significantDigits, if_neg (by omega), if_neg (by omega),
    Nat.digits_def' (by decide) (by omega), List.reverse_cons]

theorem significantDigits_of_two {m : Nat} (h : 10 ≤ m) (h' : m < 100) :
    significantDigits m = [m / 10, m % 10] := by
  rw [significantDigits_of_ten_le h, significantDigits_of_lt_ten (by omega)]
  rfl

theorem significantDigits_of_three {m : Nat} (h : 100 ≤ m) (h' : m < 1000) :
    significantDigits m = [m / 100, m / 10 % 10, m % 10] := by
  rw [significantDigits_of_ten_le (by omega), significantDigits_of_two (by omega) (by omega), Nat.div_div_eq_div_mul]
  rfl

theorem significantDigits_of_four {m : Nat} (h : 1000 ≤ m) (h' : m < 10000) :
    significantDigits m = [m / 1000, m / 100 % 10, m / 10 % 10, m % 10] := by
  rw [significantDigits_of_ten_le (by omega), significantDigits_of_three (by omega) (by omega),
    Nat.div_div_eq_div_mul, Nat.div_div_eq_div_mul]
  rfl

/-- The suppressed positions are zeros, and the digits without leading zeros follow them: one case for each number of
digits. -/
theorem decimalPlaces_eq {m : Nat} (h : m < 10000) :
    decimalPlaces m = List.replicate (suppressed (decimalPlaces m)) 0 ++ significantDigits m := by
  obtain h1 | ⟨h1, h2⟩ | ⟨h2, h3⟩ | h3 :
      m < 10 ∨ (10 ≤ m ∧ m < 100) ∨ (100 ≤ m ∧ m < 1000) ∨ 1000 ≤ m := by omega
  · have places : decimalPlaces m = [0, 0, 0, m] := by simp [decimalPlaces]; omega
    rw [places, significantDigits_of_lt_ten h1]
    rfl
  · have places : decimalPlaces m = [0, 0, m / 10, m % 10] := by simp [decimalPlaces]; omega
    have first : m / 10 ≠ 0 := by omega
    rw [places, significantDigits_of_two h1 h2]
    simp [suppressed, first]
  · have places : decimalPlaces m = [0, m / 100, m / 10 % 10, m % 10] := by simp [decimalPlaces]; omega
    have first : m / 100 ≠ 0 := by omega
    rw [places, significantDigits_of_three h2 h3]
    simp [suppressed, first]
  · have first : m / 1000 ≠ 0 := by omega
    rw [significantDigits_of_four h3 h, decimalPlaces]
    simp [suppressed, first]

/-! ## The pattern of an integer (42_digit_encoding.md R91-R95) -/

theorem intAccepted_iff {x : Int} : intAccepted x = true ↔ -999 ≤ x ∧ x ≤ 9999 := by
  simp [intAccepted]

/-- The units digit is never suppressed. -/
theorem suppressed_le_three (d : List Nat) : suppressed d ≤ 3 :=
  (List.takeWhile_prefix _).length_le.trans (List.length_take_le 3 d)

/-- A magnitude below a thousand has a suppressed position, the one for the minus sign. -/
theorem suppressed_pos {m : Nat} (h : m < 1000) : 0 < suppressed (decimalPlaces m) := by
  simp [suppressed, decimalPlaces, Nat.div_eq_of_lt h]

/-- The integer pattern has four bytes, accepted or not. -/
theorem length_intPattern (lut : Vector Byte 16) (x : Int) : (intPattern lut x).length = 4 := by
  have lead := suppressed_le_three (decimalPlaces x.natAbs)
  have places : (decimalPlaces x.natAbs).length = 4 := rfl
  unfold intPattern
  split_ifs <;> simp [places] <;> omega

/-- The positions that are not suppressed are those of the significant digits. -/
theorem suppressed_decimalPlaces {m : Nat} (h : m < 10000) :
    suppressed (decimalPlaces m) = 4 - (significantDigits m).length := by
  have length := congrArg List.length (decimalPlaces_eq h)
  rw [List.length_append, List.length_replicate] at length
  exact Nat.eq_sub_of_add_eq length.symm

theorem drop_decimalPlaces {m : Nat} (h : m < 10000) :
    (decimalPlaces m).drop (4 - (significantDigits m).length) = significantDigits m := by
  rw [← suppressed_decimalPlaces h]
  have dropped := congrArg (List.drop (suppressed (decimalPlaces m))) (decimalPlaces_eq h)
  rwa [List.drop_left' List.length_replicate] at dropped

/-- Blanks stand in every position before the digits (42_digit_encoding.md R92). -/
theorem intPattern_of_nonneg (lut : Vector Byte 16) {x : Int} (hx : 0 ≤ x) (hhi : x ≤ 9999) :
    intPattern lut x =
      List.replicate (4 - (significantDigits x.natAbs).length) 0x00#8 ++
        (significantDigits x.natAbs).map (fun k => lut.get (Fin.ofNat 16 k)) := by
  have hm : x.natAbs < 10000 := by omega
  simp only [intPattern, suppressed_decimalPlaces hm, drop_decimalPlaces hm, seg_natCast, if_neg hx.not_gt, blankByte]

/-- The minus sign takes the place of the last blank (42_digit_encoding.md R92). -/
theorem intPattern_of_neg (lut : Vector Byte 16) {x : Int} (hlo : -999 ≤ x) (hx : x < 0) :
    intPattern lut x =
      List.replicate (4 - (significantDigits x.natAbs).length - 1) 0x00#8 ++ [0x40#8] ++
        (significantDigits x.natAbs).map (fun k => lut.get (Fin.ofNat 16 k)) := by
  have hm : x.natAbs < 10000 := by omega
  have lead : 0 < suppressed (decimalPlaces x.natAbs) := suppressed_pos (by omega)
  rw [suppressed_decimalPlaces hm] at lead
  obtain ⟨blanks, hblanks⟩ := Nat.exists_eq_succ_of_ne_zero lead.ne'
  simp only [intPattern, suppressed_decimalPlaces hm, drop_decimalPlaces hm, seg_natCast, if_pos hx]
  simp [hblanks, List.replicate_succ', blankByte, minusByte]

/-- Settles O44: the pattern is its blanks, its sign and its significant digits. -/
theorem integerPatternSpellsTheDigits : Obligations.IntegerPatternSpellsTheDigits := by
  intro lut x hlo hhi
  have digits : significantDigits x.natAbs = if x = 0 then [0] else (Nat.digits 10 x.natAbs).reverse := by
    simp only [significantDigits, Int.natAbs_eq_zero]
  rw [← digits]
  by_cases hx : x < 0
  · rw [if_pos hx]
    exact ⟨_, intPattern_of_neg lut hlo hx, length_intPattern lut x⟩
  · rw [if_neg hx]
    simp only [List.append_nil]
    exact ⟨_, intPattern_of_nonneg lut (not_lt.mp hx) hhi, length_intPattern lut x⟩

/-! ## `displayInteger` (42_digit_encoding.md R91, R94) -/

/-- An update of all four positions fits (30_encoding.md R62, D11). -/
theorem setSegmentsOp_all_positions {bytes : List Byte} {s : State} (hs : s.st.initialised = true)
    (h : bytes.length = 4) : setSegmentsOp bytes 4 0 s = afterUpdate bytes 0 s := by
  rw [setSegmentsOp_eq hs (badDigitCount_eq_false.mpr ⟨h.ge, by decide⟩), List.take_of_length_le h.le]
  rfl

/-- To be ignored writes the outcome and nothing else (60_exceptions.md R105). -/
theorem conclude_ignored (s : State) : conclude .ignored s = { s with outcomes := s.outcomes ++ [.ignored] } := rfl

theorem exec_displayInteger {s : State} (hs : s.st.initialised = true) (x : Int) :
    exec (.displayInteger x) s = .next
      (if intAccepted x then setSegmentsOp (intPattern s.params.segLut x) 4 0 s else conclude .ignored s) :=
  congrArg Host.Outcome.next (requireInit_of_initialised hs)

/-- An accepted integer is an update of all four positions with its pattern (42_digit_encoding.md R94). -/
theorem exec_displayInteger_of_accepted {x : Int} {s : State} (hs : s.st.initialised = true)
    (hx : -999 ≤ x ∧ x ≤ 9999) :
    exec (.displayInteger x) s = .next (afterUpdate (intPattern s.params.segLut x) 0 s) := by
  rw [exec_displayInteger hs, if_pos (intAccepted_iff.mpr hx), setSegmentsOp_all_positions hs (length_intPattern _ _)]

/-- Settles O42: an accepted integer is an update, which logs three frames; any other is ignored. -/
theorem displayIntegerAcceptsItsDomain : Obligations.DisplayIntegerAcceptsItsDomain := by
  intro x s hs
  refine ⟨fun hx => ?_, fun hx => ?_⟩
  · obtain ⟨sent, hframes, hbytes⟩ := afterUpdate_frames (intPattern s.params.segLut x) 0 s
    refine ⟨_, _, exec_displayInteger_of_accepted hs hx, rfl, hframes, ?_⟩
    rw [framesOfLog_flatMap_frameLogEvents, hbytes]
    rfl
  · rw [exec_displayInteger hs, if_neg (mt intAccepted_iff.mp hx), conclude_ignored]

/-- Settles O43: each clause fixes the sign and the number of significant digits. -/
theorem displayIntegerCompletes : Obligations.DisplayIntegerCompletes := by
  intro x s hs hlo hhi m g
  rw [exec_displayInteger_of_accepted hs ⟨hlo, hhi⟩]
  congr 2
  split_ifs
  · rw [intPattern_of_nonneg _ (by omega) hhi, significantDigits_of_four (by omega) (by omega)]
    rfl
  · rw [intPattern_of_nonneg _ (by omega) hhi, significantDigits_of_three (by omega) (by omega)]
    rfl
  · rw [intPattern_of_nonneg _ (by omega) hhi, significantDigits_of_two (by omega) (by omega)]
    rfl
  · rw [intPattern_of_nonneg _ (by omega) hhi, significantDigits_of_lt_ten (by omega)]
    rfl
  · rw [intPattern_of_neg _ hlo (by omega), significantDigits_of_lt_ten (by omega)]
    rfl
  · rw [intPattern_of_neg _ hlo (by omega), significantDigits_of_two (by omega) (by omega)]
    rfl
  · rw [intPattern_of_neg _ hlo (by omega), significantDigits_of_three (by omega) (by omega)]
    rfl

/-! ## `displayTime` (42_digit_encoding.md R96-R98) -/

theorem timeAccepted_iff {a b : Int} : timeAccepted a b = true ↔ 0 ≤ a ∧ a ≤ 99 ∧ 0 ≤ b ∧ b ≤ 99 := by
  simp [timeAccepted, and_assoc]

theorem exec_displayTime {s : State} (hs : s.st.initialised = true) (a b : Int) :
    exec (.displayTime a b) s = .next
      (if timeAccepted a b then setSegmentsOp (timePattern s.params.segLut a b) 4 0 s else conclude .ignored s) :=
  congrArg Host.Outcome.next (requireInit_of_initialised hs)

/-- The bytes of two fields that are not negative (42_digit_encoding.md R97). -/
theorem timePattern_eq (lut : Vector Byte 16) {a b : Int} (ha : 0 ≤ a) (hb : 0 ≤ b) :
    timePattern lut a b =
      [lut.get (Fin.ofNat 16 (a / 10).toNat), lut.get (Fin.ofNat 16 (a % 10).toNat) ||| 0x80#8,
        lut.get (Fin.ofNat 16 (b / 10).toNat), lut.get (Fin.ofNat 16 (b % 10).toNat)] := by
  rw [timePattern, seg_of_nonneg lut (by omega), seg_of_nonneg lut (by omega), seg_of_nonneg lut (by omega),
    seg_of_nonneg lut (by omega), colonByte]

/-- Settles O45: the fields in their range, a field out of it, and a block before `init`. -/
theorem displayTimeCompletes : Obligations.DisplayTimeCompletes := by
  intro a b s g
  refine ⟨fun hs ha ha' hb hb' => ?_, fun hs hout => ?_, fun hs => ?_⟩
  · rw [exec_displayTime hs, if_pos (timeAccepted_iff.mpr ⟨ha, ha', hb, hb'⟩), setSegmentsOp_all_positions hs rfl,
      timePattern_eq _ ha hb]
  · have rejected : ¬ timeAccepted a b = true := by
      rw [timeAccepted_iff]
      omega
    rw [exec_displayTime hs, if_neg rejected, conclude_ignored]
  · exact congrArg Host.Outcome.next (requireInit_of_not_initialised hs)

end Sys2Proof.Machine
end

section
/-!
PROOFS. The outcomes of operations (spec/60_exceptions.md R101-R105): each operation ends with one, a call that does not
end `Done` is its outcome and nothing else, and a halted block has no step.
-/

namespace Sys2Proof.Machine

/-! ## How an operation ends (60_exceptions.md R101, R104) -/

/-- The forms of the state after an operation are of two kinds: those with an effect end `Done`, which leaves `st.halt`
alone, and the other is the ending of the operation by itself (60_exceptions.md R104). -/
theorem exec_ends_done_or_concludes {i : Instr} {s t : State} (h : exec i s = .next t) :
    (∃ r, t.outcomes = s.outcomes ++ [.done r] ∧ t.st.halt = s.st.halt) ∨ ∃ o, t = conclude o s := by
  cases exec_next_cases h with
  | byte => subst t; exact .inl ⟨_, rfl, rfl⟩
  | line => subst t; exact .inl ⟨_, rfl, rfl⟩
  | outcome o _ ht => exact .inr ⟨o, ht⟩
  | update => subst t; exact .inl ⟨_, rfl, rfl⟩
  | brightness => subst t; exact .inl ⟨_, rfl, rfl⟩
  | initialised => subst t; exact .inl ⟨_, rfl, rfl⟩

/-- The ending of an operation writes its outcome and `st.halt` (60_exceptions.md R105). -/
theorem conclude_eq_afterOutcome (o : CallOutcome) (s : State) :
    conclude o s = afterOutcome o (haltAfter s.st.halt o) s := rfl

/-- An operation that logs an outcome other than `Done` is the ending with that outcome. -/
theorem eq_conclude_of_not_done {i : Instr} {s t : State} {o : CallOutcome} (h : exec i s = .next t)
    (hlog : t.outcomes = s.outcomes ++ [o]) (notDone : ∀ r, o ≠ .done r) : t = conclude o s := by
  obtain ⟨r, hdone, _⟩ | ⟨o', rfl⟩ := exec_ends_done_or_concludes h
  · rw [hdone, List.append_right_inj, List.singleton_inj] at hlog
    exact absurd hlog.symm (notDone r)
  · rw [conclude_outcomes, List.append_right_inj, List.singleton_inj] at hlog
    rw [hlog]

/-- Settles O46: an operation with an effect ends `Done` and keeps `st.halt`; any other sets it as its ending does. -/
theorem everyOperationEndsWithOneOutcome : Obligations.EveryOperationEndsWithOneOutcome := by
  intro i s
  obtain ⟨t, h⟩ := exists_exec_eq_next i s
  obtain ⟨r, hlog, hhalt⟩ | ⟨o, rfl⟩ := exec_ends_done_or_concludes h
  · exact ⟨t, .done r, h, hlog, hhalt⟩
  · exact ⟨_, o, h, rfl, by cases o <;> rfl⟩

/-- Settles O47: the call is its ending, which writes `st.halt` alone. -/
theorem outcomesOtherThanDoneArePrecise : Obligations.OutcomesOtherThanDoneArePrecise := by
  intro i s t o h hlog notDone
  rw [eq_conclude_of_not_done h hlog notDone, conclude_eq_afterOutcome]
  cases o <;> rfl

/-- Settles O48: the call is its ending with `Ignored`, which leaves `st.halt` as it was. -/
theorem ignoredChangesNothing : Obligations.IgnoredChangesNothing := by
  intro i s t h hlog
  have ht : t = conclude .ignored s := eq_conclude_of_not_done h hlog fun _ => nofun
  refine ⟨ht.trans (conclude_ignored s), fun hs => ?_⟩
  rw [ht, conclude_halt, haltAfter_ignored, hs]

/-! ## Halted states (60_exceptions.md R103; log 8) -/

theorem step_of_fault {s : State} {r : FaultReason} (h : s.st.halt = some (.fault r)) :
    step s = .fault (.halted r) := by
  simp [step, h]

theorem step_of_refused {s : State} {r : RefusalReason} (h : s.st.halt = some (.refused r)) :
    step s = .refused (.halted r) := by
  simp [step, h]

/-- Settles O8: a step looks at `st.halt` before it takes a request, and stops by the reason it finds there. -/
theorem haltedStateHasNoStep : Obligations.HaltedStateHasNoStep :=
  ⟨fun _ _ h => step_of_fault h, fun _ _ h => step_of_refused h⟩

end Sys2Proof.Machine
end

section
/-!
PROOFS. Reset, the first `init`, and the hazards (spec/70_reset_and_hazards.md R114, R115, R120-R124): how long CLK is
high in a frame, what stands between two frames, and when a written brightness reaches the wire.
-/

namespace Sys2Proof.Machine

/-! ## The high time of CLK (70_reset_and_hazards.md R120) -/

/-- An event that does not release CLK asks for no `WAIT`. -/
theorem clockHighHeld_cons_of_ne {e : LineEvent} (h : e ≠ .rel .clk) (rest : List LineEvent) :
    clockHighHeld (e :: rest) = clockHighHeld rest := by
  match e, h with
  | .rel .dio, _ | .drive _, _ | .wait, _ | .sample _, _ => rfl

/-- Where every release of CLK has had its `WAIT`, only what follows can lack one. -/
theorem clockHighHeld_append {first : List LineEvent} (h : clockHighHeld first = true) (second : List LineEvent) :
    clockHighHeld (first ++ second) = clockHighHeld second := by
  fun_induction clockHighHeld first with
  | case1 => rfl
  | case2 rest ih => exact ih h
  | case3 => cases h
  | case4 e rest _ notReleased ih =>
    rw [List.cons_append, clockHighHeld_cons_of_ne notReleased, ih h]

/-- Pieces that each hold CLK high long enough do so one after another. -/
theorem clockHighHeld_flatMap {α : Type} {events : α → List LineEvent} (h : ∀ x, clockHighHeld (events x) = true)
    (xs : List α) : clockHighHeld (xs.flatMap events) = true := by
  induction xs with
  | nil => rfl
  | cons x rest ih => rw [List.flatMap_cons, clockHighHeld_append (h x), ih]

/-- A bit cell waits after its one release of CLK, whatever its bit (30_encoding.md R48). -/
theorem clockHighHeld_bitCell (d : Bool) : clockHighHeld (bitCell d) = true := by
  cases d <;> rfl

/-- The bit cells of a byte and its ACK cell each wait after their one release of CLK (30_encoding.md R50). -/
theorem clockHighHeld_byteEvents (b : Byte) (v : Level) : clockHighHeld (byteEvents b v) = true := by
  rw [byteEvents, clockHighHeld_append (clockHighHeld_flatMap clockHighHeld_bitCell _)]
  rfl

/-- Settles O21: START, every byte and STOP each wait after every release of CLK. -/
theorem clockHighLastsABitPeriod : Obligations.ClockHighLastsABitPeriod := by
  intro bytes
  have start : clockHighHeld startEvents = true := rfl
  have payload : clockHighHeld (bytes.flatMap fun p => byteEvents p.1 p.2) = true :=
    clockHighHeld_flatMap (fun p : Byte × Level => clockHighHeld_byteEvents p.1 p.2) bytes
  rw [frameLineEvents, List.append_assoc, clockHighHeld_append start, clockHighHeld_append payload]
  rfl

/-! ## Between two frames (70_reset_and_hazards.md R122) -/

/-- The last event of a frame is the `REL DIO` of its STOP (40_transport.md R71). -/
theorem exists_frameLineEvents_eq_append_rel_dio (bytes : List (Byte × Level)) :
    ∃ before, frameLineEvents bytes = before ++ [.rel .dio] := by
  have stop : stopEvents = stopEvents.dropLast ++ [.rel .dio] := rfl
  exact ⟨_, by rw [frameLineEvents, stop, ← List.append_assoc]⟩

/-- The first events of a frame are those of its START (40_transport.md R70). -/
theorem exists_frameLineEvents_eq_start_append (bytes : List (Byte × Level)) :
    ∃ after, frameLineEvents bytes = startEvents ++ after :=
  ⟨_, List.append_assoc _ _ _⟩

/-- Settles O22: after the last event of the first frame come the events of the second one's START, up to its
`DRIVE DIO`. -/
theorem oneWaitBetweenFrames : Obligations.OneWaitBetweenFrames := by
  intro first second
  obtain ⟨before, hfirst⟩ := exists_frameLineEvents_eq_append_rel_dio first
  obtain ⟨after, hsecond⟩ := exists_frameLineEvents_eq_start_append second
  refine ⟨before, after, ?_, ?_⟩
  · rw [hfirst, hsecond]
    simp [startEvents]
  · rw [hfirst, List.length_append, List.length_singleton]

/-! ## When a brightness reaches the wire (70_reset_and_hazards.md R124) -/

/-- The control byte of a written level is `0x88` with the level modulo 8 in its low bits (30_encoding.md R53,
10_state.md R20). -/
theorem controlByte_ctrlOfLevel (level : Int) :
    controlByte (ctrlOfLevel level) = 0x88#8 ||| BitVec.ofNat 8 (level % 8).toNat := by
  have all : ∀ n < 8, controlByte (0x8#4 ||| BitVec.ofNat 4 n) = 0x88#8 ||| BitVec.ofNat 8 n := by decide
  rw [ctrlOfLevel_eq]
  exact all _ (by omega)

/-- Settles O38: `setBrightness` writes the control register and records nothing, and the last of the three frames of an
update is the control byte of that register. -/
theorem brightnessReachesTheNextUpdate : Obligations.BrightnessReachesTheNextUpdate := by
  intro level segments n p s hs hn hp
  let t := conclude (.done .unit) { s with st := { s.st with ctrl := ctrlOfLevel level } }
  obtain ⟨sent, hframes, hbytes⟩ := afterUpdate_frames ((segments.take n).map (BitVec.ofNat 8)) (positionField p) t
  refine ⟨t, _, sent.flatMap frameLogEvents, exec_setBrightness hs, rfl, rfl, exec_setSegments hs hn hp, hframes, ?_⟩
  rw [framesOfLog_flatMap_frameLogEvents, hbytes, ← controlByte_ctrlOfLevel]
  rfl

/-! ## Reset and the first `init` (70_reset_and_hazards.md R114, R115) -/

/-- Settles O24: reset starts the block before `init`, with nothing recorded. -/
theorem resetIsBeforeInit : Obligations.ResetIsBeforeInit := ⟨rfl, rfl, rfl, rfl⟩

/-- The default table meets the law of 42_digit_encoding.md R88 (log 9). -/
theorem lutLawful_defaultSegLut : lutLawful defaultSegLut = true := by decide

/-- Settles O53: reset sets the hard-wired bit and retains no snapshot (log 1), has the default table (log 9), and is
before `init`, so nothing is asked of its lines. -/
theorem resetMeetsTheInvariant : Obligations.ResetMeetsTheInvariant where
  enabled := rfl
  twoLines := nofun
  snapshot := rfl
  table := lutLawful_defaultSegLut

/-- What `init` writes: the whole record but `st.halt`, and the releases of both lines in the trace
(41_command_protocol.md R87). -/
theorem initialise_eq (clk dio : LineId) (level : Int) (delay : Nat) (retain : Bool) (s : State) :
    initialise clk dio level delay retain s = { s with
      st := {
        clkLine := clk
        dioLine := dio
        bitDelay := delay
        ctrl := ctrlOfLevel level
        retain := retain
        snap := if retain then some blankPattern else none
        clk := .rel
        dio := .rel
        initialised := true
        halt := s.st.halt }
      trace := s.trace ++ [.rel .clk, .rel .dio] } := by
  simp [initialise, releaseLine_eq, setDrive]

/-- Settles O25: a first `init` on two lines is the writes of `initialise` and the outcome `Done`. -/
theorem initCompletes : Obligations.InitCompletes := by
  intro clk dio level delay retain s hs hne
  have blank : blankPattern = #v[0#8, 0#8, 0#8, 0#8] := rfl
  rw [exec_init hs hne, conclude_done, initialise_eq, ctrlOfLevel_eq, blank]

end Sys2Proof.Machine
end
